-- ==== Sys2Proof/Word.lean ====
section
/-! DEFINITION. The word types of the block: 32-bit register words and 8-bit channels (rules R7, R9, R51). -/

namespace Sys2Proof

/-- One 32-bit word: the only width a bus transaction moves (R51). -/
abbrev Word := BitVec 32

/-- One 8-bit value: a colour channel, a coordinate, a slot number, a mode, a GammaLUT entry (R7, R71). -/
abbrev Byte := BitVec 8

end Sys2Proof
end

