-- ==== Sys2Proof/Syntax.lean ====
section
/-! DEFINITION. The instructions: the ten commands and the reserved opcodes that a CMD word can hold (R74), and
the host's bus accesses (R78). One constructor per mnemonic of the opcode table. -/

namespace Sys2Proof

inductive Instr where
  /-- NOP, format N (R200). -/
  | nop
  /-- INIT, format N (R180). -/
  | init
  /-- CONFIGURE, format N (R100). -/
  | configure
  /-- PRESET MODE, format M (R102). -/
  | preset (mode : Byte)
  /-- CORRECT, format N (R104). -/
  | correct
  /-- DECODE X, Y, format XY (R142). -/
  | decode (x y : Byte)
  /-- WRPIX X, Y, format XY (R145). -/
  | wrpix (x y : Byte)
  /-- WRPIXRAW X, Y, format XY (R146). -/
  | wrpixraw (x y : Byte)
  /-- WRSLOTRAW SLOT, format S (R147). -/
  | wrslotraw (slot : Byte)
  /-- FLUSH, format N (R175). -/
  | flush
  /-- A CMD word whose OPC is in 0x0A..0xFF (R75, R212). -/
  | reservedOpc (opc : Byte)
  /-- Write CMD: issue a command (R57, R78). -/
  | busWCmd (wdata : Word)
  /-- Read CMD (R53). -/
  | busRCmd
  /-- Read STATUS (R23). -/
  | busRStatus
  /-- Write STATUS (R23, R217). -/
  | busWStatus (wdata : Word)
  /-- Read COLOR (R25). -/
  | busRColor
  /-- Write COLOR (R25). -/
  | busWColor (wdata : Word)
  /-- Read RESULT (R26). -/
  | busRResult
  /-- Write STG_GAMMA (R27). -/
  | busWStgGamma (wdata : Word)
  /-- Write STG_RATIO (R27). -/
  | busWStgRatio (wdata : Word)
  /-- Write STG_CFG (R27). -/
  | busWStgCfg (wdata : Word)
  /-- Read STG_GAMMA (R27). -/
  | busRStgGamma
  /-- Read STG_RATIO (R27). -/
  | busRStgRatio
  /-- Read STG_CFG (R27). -/
  | busRStgCfg
  /-- Read FBDATA[s] (R30). -/
  | busRFbdata (s : BitVec 5)
  /-- Every other pattern `W AAAAAA`: reserved, or a write to a read-only register (R53, R78). -/
  | busReserved (w : Bool) (a : BitVec 6)
  deriving DecidableEq, Repr

end Sys2Proof
end

