-- ==== Sys2Proof/WellFormed.lean ====
section
/-! DEFINITION. The operand ranges that make a term of `Instr` the reading of some bit pattern. -/

namespace Sys2Proof

/-- R78's last row: the patterns `W AAAAAA` that no other row of the bus table lists. Reads: word addresses
7..31 and 57..63. Writes: RESULT (3) and every address from 7 on. -/
def isReservedAccess (w : Bool) (a : BitVec 6) : Bool :=
  if w then a.toNat = 3 || 7 ≤ a.toNat else (7 ≤ a.toNat && a.toNat < 32) || 57 ≤ a.toNat

/-- The three checks: a reserved opcode is 0x0A or above (R75), FBDATA has 25 words (R30), and a reserved access
is one that no other row lists (R78). Every other operand may hold any value of its width (R71). -/
def Instr.wf : Instr → Bool
  | .reservedOpc opc => 0x0A ≤ opc.toNat
  | .busRFbdata s => s.toNat < 25
  | .busReserved w a => isReservedAccess w a
  | .nop | .init | .configure | .preset _ | .correct | .decode _ _ | .wrpix _ _ | .wrpixraw _ _
  | .wrslotraw _ | .flush | .busWCmd _ | .busRCmd | .busRStatus | .busWStatus _ | .busRColor
  | .busWColor _ | .busRResult | .busWStgGamma _ | .busWStgRatio _ | .busWStgCfg _ | .busRStgGamma
  | .busRStgRatio | .busRStgCfg => true

end Sys2Proof
end

