-- ==== Sys2Proof/Decode.lean ====
section
/-! DEFINITION. Decoding command words (R70 to R75) and bus accesses (R78), and the encoder written from the same
tables. -/

namespace Sys2Proof

/-- What the block is handed to decode: the word of an accepted CMD write, or one bus access as its 7-bit pattern
`W AAAAAA` in a byte (bit 6 is W, bit 7 is no part of the pattern) and the write data. -/
inductive Fetched where
  | command (w : Word)
  | access (pattern : Byte) (wdata : Word)
  deriving DecidableEq, Repr

/-- Why bits are no instruction. -/
inductive DecodeError where
  /-- A bus pattern has seven bits (R78), and bit 7 of the byte is set. -/
  | patternTooWide
  /-- The number of bits is that of no row of the table: neither a command word nor a bus access. -/
  | noSuchLength
  deriving DecidableEq, Repr

/-- OPC (R70). -/
def opcField (w : Word) : Byte := w.extractLsb' 24 8

/-- X, SLOT and MODE: CMD[7:0] (R71). -/
def lowField (w : Word) : Byte := w.extractLsb' 0 8

/-- Y: CMD[15:8] (R71). -/
def yField (w : Word) : Byte := w.extractLsb' 8 8

/-- The opcode map (R74): OPC alone selects the command, and reserved bits are ignored (R72). -/
def decodeCommand (w : Word) : Instr :=
  match (opcField w).toNat with
  | 0x00 => .nop
  | 0x01 => .init
  | 0x02 => .configure
  | 0x03 => .preset (lowField w)
  | 0x04 => .correct
  | 0x05 => .decode (lowField w) (yField w)
  | 0x06 => .wrpix (lowField w) (yField w)
  | 0x07 => .wrpixraw (lowField w) (yField w)
  | 0x08 => .wrslotraw (lowField w)
  | 0x09 => .flush
  | _ => .reservedOpc (opcField w)

/-- The bus table (R78): `bus_write`, `bus_addr`, and the write data where the access is a write. -/
def decodeRequest (write : Bool) (addr : BitVec 6) (wdata : Word) : Instr :=
  match write, addr.toNat with
  | true, 0 => .busWCmd wdata
  | false, 0 => .busRCmd
  | false, 1 => .busRStatus
  | true, 1 => .busWStatus wdata
  | false, 2 => .busRColor
  | true, 2 => .busWColor wdata
  | false, 3 => .busRResult
  | true, 4 => .busWStgGamma wdata
  | true, 5 => .busWStgRatio wdata
  | true, 6 => .busWStgCfg wdata
  | false, 4 => .busRStgGamma
  | false, 5 => .busRStgRatio
  | false, 6 => .busRStgCfg
  | w, a => if w = false ∧ 32 ≤ a ∧ a ≤ 56 then .busRFbdata (addr.extractLsb' 0 5) else .busReserved w addr

/-- Decoding, total: every command word is an instruction (R74: the map is complete), and so is every 7-bit
pattern. -/
def decode : Fetched → Except DecodeError Instr
  | .command w => .ok (decodeCommand w)
  | .access p d =>
    if p.getLsbD 7 then .error .patternTooWide
    else .ok (decodeRequest (p.getLsbD 6) (p.extractLsb' 0 6) d)

/-- A command word in format XY: `(OPC << 24) | (Y << 8) | X` (R70, R79). Formats S, M and N have Y = 0. -/
def commandWord (opc y x : Byte) : Word := opc ++ (0#8) ++ y ++ x

/-- The pattern byte `0 W AAAAAA` (R78). -/
def patternByte (write : Bool) (addr : BitVec 6) : Byte := (0#1) ++ (BitVec.ofBool write) ++ addr

/-- The encoder. Reserved bits are written as 0, as R72 tells software to. -/
def encode : Instr → Fetched
  | .nop => .command (commandWord 0x00 0 0)
  | .init => .command (commandWord 0x01 0 0)
  | .configure => .command (commandWord 0x02 0 0)
  | .preset mode => .command (commandWord 0x03 0 mode)
  | .correct => .command (commandWord 0x04 0 0)
  | .decode x y => .command (commandWord 0x05 y x)
  | .wrpix x y => .command (commandWord 0x06 y x)
  | .wrpixraw x y => .command (commandWord 0x07 y x)
  | .wrslotraw slot => .command (commandWord 0x08 0 slot)
  | .flush => .command (commandWord 0x09 0 0)
  | .reservedOpc opc => .command (commandWord opc 0 0)
  | .busWCmd d => .access (patternByte true 0) d
  | .busRCmd => .access (patternByte false 0) 0
  | .busRStatus => .access (patternByte false 1) 0
  | .busWStatus d => .access (patternByte true 1) d
  | .busRColor => .access (patternByte false 2) 0
  | .busWColor d => .access (patternByte true 2) d
  | .busRResult => .access (patternByte false 3) 0
  | .busWStgGamma d => .access (patternByte true 4) d
  | .busWStgRatio d => .access (patternByte true 5) d
  | .busWStgCfg d => .access (patternByte true 6) d
  | .busRStgGamma => .access (patternByte false 4) 0
  | .busRStgRatio => .access (patternByte false 5) 0
  | .busRStgCfg => .access (patternByte false 6) 0
  | .busRFbdata s => .access (patternByte false ((1#1) ++ s)) 0
  | .busReserved w a => .access (patternByte w a) 0

/-- An instruction's bits as the opcode table numbers them (assumption 10): 32 bits are a command word; 7 bits (in
whole bytes 8) are a bus pattern, whose write data, in bits 39..8, are 0 where the table gives them no bits. -/
def fetchedOfBits (nbits w : Nat) : Except DecodeError Fetched :=
  if nbits = 32 then .ok (.command (BitVec.ofNat 32 w))
  else if nbits = 7 ∨ nbits = 8 ∨ nbits = 40 then
    .ok (.access (BitVec.ofNat 8 w) (BitVec.ofNat 32 (w >>> 8)))
  else .error .noSuchLength

/-- The decoder's reading of an instruction whose bits are `w`, numbered as the opcode table numbers them. -/
def decodeTableWord (nbits w : Nat) : Option Instr :=
  match fetchedOfBits nbits w with
  | .ok f => (decode f).toOption
  | .error _ => none

end Sys2Proof
end

