-- ==== Sys2Proof/Config.lean ====
section
/-! DEFINITION. The fixed geometry (R7) and the nine parameters that R8 makes arguments of a model. -/

namespace Sys2Proof.Config

/-- WIDTH (R7). -/
def width : Nat := 5

/-- HEIGHT (R7). -/
def height : Nat := 5

/-- COUNT = WIDTH · HEIGHT, the number of LED slots (R7). -/
def count : Nat := 25

/-- The parameters of R8 for which R8 has a value or a default. `State` carries them unchanged, so
that a statement about every state holds for every choice of them (assumptions 3 and 4). Times are in nanoseconds. -/
structure Params where
  /-- `P_MAX_INCLUDES_BLUE`: whether purification's maximum includes blue (R8, R107). -/
  maxIncludesBlue : Bool
  /-- `T_BIT`, the bit period on `dout`. -/
  tBit : Nat
  /-- `T0H`, the high time of a 0 bit. -/
  t0h : Nat
  /-- `T1H`, the high time of a 1 bit. -/
  t1h : Nat
  /-- `T_LATCH`, the low time after a frame. -/
  tLatch : Nat
  deriving DecidableEq, Repr

/-- What R173 requires of the times: `0 < T0H < T1H < T_BIT`. -/
abbrev Params.wf (p : Params) : Prop := 0 < p.t0h ∧ p.t0h < p.t1h ∧ p.t1h < p.tBit

/-- R8's values: `true`, 1.25 µs, and the defaults 0.40 µs, 0.80 µs, 300 µs, which R8 itself marks as general
knowledge. PRESUMED (assumption 4) for the three defaults. -/
def Params.standard : Params := ⟨true, 1250, 400, 800, 300000⟩

/-- The parameters that R8 leaves OPEN, without a value: they fix how long things take and where the register window
stands, and no result of an instruction depends on them. A definition that needs them takes them as an argument
(assumption 18). -/
structure Platform where
  /-- `F_CLK`, the frequency of `clk`, in Hz. -/
  fClk : Nat
  /-- `L_CMD`, cycles from a command's acceptance to its completion, without a LUT build or a frame. -/
  lCmd : Nat
  /-- `L_LUT`, cycles to build the GammaLUT. -/
  lLut : Nat
  /-- `BASE`, the byte address at which the platform places the register window. -/
  base : Nat
  deriving DecidableEq, Repr

/-- What R8 requires of them: a clock that runs, `L_CMD ≥ 1` and `L_LUT ≥ 1`. -/
abbrev Platform.wf (q : Platform) : Prop := 0 < q.fClk ∧ 1 ≤ q.lCmd ∧ 1 ≤ q.lLut

end Sys2Proof.Config
end

