-- ==== Sys2Proof/Machine/State.lean ====
section
/-! DEFINITION. The state of the block (R33), the host's side of it (R20, R32, R60), and the state after reset
(R241). Plain data. -/

namespace Sys2Proof.Machine

/-- A colour in natural order `(r, g, b)` (R11). -/
structure Rgb where
  r : Byte
  g : Byte
  b : Byte
  deriving DecidableEq, Repr

/-- A frame-buffer slot in wire order `[G, R, B]` (R11, R29). -/
structure Slot where
  g : Byte
  r : Byte
  b : Byte
  deriving DecidableEq, Repr

/-- The 25 slots, in wire order of the LEDs (R29). -/
abbrev FrameBuffer := Vector Slot 25

/-- The 256 entries of the GammaLUT (R28). -/
abbrev Lut := Vector Byte 256

/-- CorrectionConfig, the active configuration CFG (R24). -/
structure CorrConfig where
  gamma : Word
  noiseThr : Byte
  ratio : Word
  enGamma : Bool
  enNoise : Bool
  enPur : Bool
  deriving DecidableEq, Repr

/-- An accepted command: its word and the operands latched in the cycle it was accepted (R73). -/
structure Pending where
  word : Word
  color : Rgb
  stgGamma : Word
  stgRatio : Word
  stgCfg : BitVec 11
  deriving DecidableEq, Repr

/-- `tx_phase` (R31). -/
inductive TxPhase where
  | idle
  | lead
  | data
  | latch
  deriving DecidableEq, Repr

/-- An event of the DOUT trace (R32, R171). -/
inductive Event where
  /-- `Frame(bits)`, 600 bits. -/
  | frame (bits : List Bool)
  /-- `Latch`. -/
  | latch
  deriving DecidableEq, Repr

/-- A bus transaction as the host drives it: `bus_write`, `bus_addr`, `bus_wdata` (R50). -/
structure BusRequest where
  write : Bool
  addr : BitVec 6
  wdata : Word
  deriving DecidableEq, Repr

/-- What the environment lets happen next (assumption 1). The list of these in `State` is the host's program and
the schedule of the run in one: R20's agents, in the order in which they move. -/
inductive Input where
  /-- The host issues a bus transaction (R51). -/
  | bus (request : BusRequest)
  /-- The command engine runs to the completion of the command in progress, or accepts a held CMD write. -/
  | engine
  /-- The transmitter advances by one line event (R31, R173). -/
  | tx
  /-- The platform drives `rst` to this level, and a rising edge of `clk` samples it (R50, R240). -/
  | rst (level : Bool)
  deriving DecidableEq, Repr

/-- The complete state of the block (R33), with the ports that hold a level between steps (`rst`, `dout`, a held
CMD write), the observation (R32), the parameters (R8) and the environment's next moves. -/
structure State where
  /-- The parameters of R8: the model's own field, which no step changes (assumptions 3 and 4). -/
  params : Config.Params
  /-- The level of the `rst` port (R50, R240). -/
  rst : Bool
  /-- The word of a CMD write that is being held with `bus_ready` = 0 (R57, R240). -/
  held : Option Word
  /-- The pending command (R33). BUSY is 1 exactly while there is one (R21; assumption 2). -/
  pending : Option Pending
  /-- STATUS.TX_EN (R23). -/
  txEn : Bool
  /-- STATUS.LUT_VALID (R23). -/
  lutValid : Bool
  /-- STATUS.ERR (R23). -/
  err : Bool
  /-- STATUS.ERR_CODE (R23, R210). -/
  errCode : BitVec 4
  /-- COLOR[23:0] (R25); bits 31..24 are reserved and read 0. -/
  color : Rgb
  /-- RESULT (R26). -/
  result : Word
  /-- STG_GAMMA (R27). -/
  stgGamma : Word
  /-- STG_RATIO (R27). -/
  stgRatio : Word
  /-- STG_CFG[10:0] (R27); bits 31..11 are reserved. -/
  stgCfg : BitVec 11
  /-- CFG (R24). -/
  cfg : CorrConfig
  /-- LUT[0..255] (R28). -/
  lut : Lut
  /-- FB[0..24] (R29). -/
  fb : FrameBuffer
  /-- `tx_phase` (R31). -/
  txPhase : TxPhase
  /-- `tx_slot`, 0..24 (R31). -/
  txSlot : Fin 25
  /-- `tx_bit`, 23..0 (R31). -/
  txBit : Fin 24
  /-- DOUT, the data line (R31, R170). -/
  dout : Bool
  /-- The DOUT trace, oldest event first (R32). -/
  trace : List Event
  /-- The results of the host's reads, oldest first: the other half of the observation (R32). -/
  reads : List Word
  /-- What the environment lets happen next: the model's own field (assumption 1). -/
  inputs : List Input
  deriving DecidableEq, Repr

/-- Why a step stops with a fault: never. The block has no trap (R216), no bus error (R56) and no command that
stops it (R211); every step answers a next state. -/
inductive Fault where
  deriving DecidableEq, Repr

/-- Why a step refuses. -/
inductive Refusal where
  /-- Raised by an arm of `exec` that has no meaning yet. No arm raises it. Safe: a stop where the block goes on. -/
  | notModelled (mnemonic : String)
  deriving DecidableEq, Repr

/-- Black: the slot `[0, 0, 0]` (R29). -/
def Slot.black : Slot := ⟨0, 0, 0⟩

/-- All LEDs off (R29, R180). -/
def blackFrame : FrameBuffer := Vector.replicate 25 Slot.black

/-- Preset 2, "normal, default": the reset value of CFG (R24, R103). -/
def CorrConfig.default : CorrConfig := ⟨0x400CCCCD, 15, 0x41000000, true, true, true⟩

/-- The machine right after reset, with `rst` released (R240, R241). DESIGN CHOICE: the LUT contents
(assumption 5) and `tx_slot`, `tx_bit` (assumption 6), which R241 leaves unspecified. -/
def State.reset : State where
  params := Config.Params.standard
  rst := false
  held := none
  pending := none
  txEn := false
  lutValid := false
  err := false
  errCode := 0
  color := ⟨0, 0, 0⟩
  result := 0
  stgGamma := 0x400CCCCD
  stgRatio := 0x41000000
  stgCfg := 0x70F
  cfg := CorrConfig.default
  lut := Vector.replicate 256 0
  fb := blackFrame
  txPhase := .idle
  txSlot := 0
  txBit := 0
  dout := false
  trace := []
  reads := []
  inputs := []

end Sys2Proof.Machine
end

