-- ==== Sys2Proof/Machine/Flags.lean ====
section
/-! DEFINITION. STATUS: its fields, the word a read returns, and the write that clears the error (R23, R217). -/

namespace Sys2Proof.Machine

/-- STATUS.BUSY: 1 from the acceptance of a command to its completion (R21, R23). -/
def busy (s : State) : Bool := s.pending.isSome

/-- The STATUS word (R23): BUSY, TX_EN, LUT_VALID, ERR, ERR_CODE from bit 0 up; bits 31..8 read 0. -/
def statusWord (s : State) : Word :=
  (0#24) ++ s.errCode ++ BitVec.ofBool s.err ++ BitVec.ofBool s.lutValid ++ BitVec.ofBool s.txEn
    ++ BitVec.ofBool (busy s)

/-- A write to STATUS (R23, R53, R217): bit 3 = 1 clears ERR and ERR_CODE; nothing else acts. -/
def writeStatus (wdata : Word) (s : State) : State :=
  if wdata.getLsbD 3 then { s with err := false, errCode := 0 } else s

/-- The error codes of R210. -/
inductive CmdError where
  | reservedOpc
  | badConfig
  | badPreset
  | txNotInit
  deriving DecidableEq, Repr

/-- The ERR_CODE value of an error (R210). -/
def CmdError.code : CmdError → BitVec 4
  | .reservedOpc => 1
  | .badConfig => 2
  | .badPreset => 3
  | .txNotInit => 4

/-- The error record (R211, R218): the first error since ERR was last clear is kept. -/
def recordError (e : CmdError) (s : State) : State :=
  if s.err then s else { s with err := true, errCode := e.code }

end Sys2Proof.Machine
end

