-- ==== Sys2Proof/Machine/Operands.lean ====
section
/-! DEFINITION. The packed layouts of colours and slots, and the operands a command works on (R25, R27, R30, R55,
R71, R73). -/

namespace Sys2Proof.Machine

/-- The COLOR layout `{8'h00, r, g, b}` (R25, R55). -/
def Rgb.toWord (c : Rgb) : Word := (0#8) ++ c.r ++ c.g ++ c.b

/-- The colour in a word written to COLOR; bits 31..24 are ignored (R25, R53). -/
def Rgb.ofWord (w : Word) : Rgb := ⟨w.extractLsb' 16 8, w.extractLsb' 8 8, w.extractLsb' 0 8⟩

/-- The FBDATA layout `{8'h00, G, R, B}` (R30). -/
def Slot.toWord (sl : Slot) : Word := (0#8) ++ sl.g ++ sl.r ++ sl.b

/-- A colour put in wire order (R11, R146). -/
def Rgb.toSlot (c : Rgb) : Slot := ⟨c.g, c.r, c.b⟩

/-- FBDATA[n]: slot `n` as R30 lays it out; an offset past FBDATA[24] is reserved and reads 0 (R53). -/
def fbWord (fb : FrameBuffer) (n : Nat) : Word :=
  if h : n < 25 then (fb[n]'h).toWord else 0

/-- The configuration in staging words: NOISE_THR, EN_GAMMA, EN_NOISE, EN_PUR are STG_CFG[7:0], [8], [9], [10]
(R27, R100). -/
def stagedConfig (gamma ratio : Word) (cfg : BitVec 11) : CorrConfig where
  gamma := gamma
  noiseThr := cfg.extractLsb' 0 8
  ratio := ratio
  enGamma := cfg.getLsbD 8
  enNoise := cfg.getLsbD 9
  enPur := cfg.getLsbD 10

/-- What a command accepted now latches (R73). -/
def latchOperands (word : Word) (s : State) : Pending :=
  ⟨word, s.color, s.stgGamma, s.stgRatio, s.stgCfg⟩

/-- The operands a command uses: the copies latched at its acceptance, never the registers (R58, R73). With no
command in progress, those it would latch if accepted now (assumption 9). -/
def operands (s : State) : Pending := s.pending.getD (latchOperands 0 s)

end Sys2Proof.Machine
end

