-- ==== Sys2Proof/Machine/Ops.lean ====
section
/-! DEFINITION. The shared operations: accepting and completing a command, raising a command error (the block's
only exception: it vectors nowhere, R216), bus reads and writes, writing a slot, and reset. -/

namespace Sys2Proof.Machine

/-- What a meaning answers. -/
abbrev Result := Host.Outcome State Fault Refusal

/-- A command is accepted: BUSY <- 1 and its operands are latched (R57, R73, R76). -/
def accept (word : Word) (s : State) : State := { s with pending := some (latchOperands word s) }

/-- A command completes: BUSY <- 0 (R59, R76). -/
def complete (s : State) : State := { s with pending := none }

/-- `raise CmdError` (R211): the command's only effect is the error record, and it completes as usual. -/
def raise (e : CmdError) (s : State) : Result := .next (complete (recordError e s))

/-- A bus read: the host gets the value, and no register changes (R56). While `rst` = 1 it gets 0 (R240). -/
def busRead (value : Word) (s : State) : Result :=
  .next { s with reads := s.reads ++ [if s.rst then 0 else value] }

/-- A bus write. While `rst` = 1 it completes with no effect (R240). -/
def busWrite (effect : State → State) (s : State) : Result := .next (if s.rst then s else effect s)

/-- Write a slot of the FB; an index that is no slot writes nothing (R147, R213). -/
def writeSlot (n : Nat) (sl : Slot) (s : State) : State := { s with fb := s.fb.setIfInBounds n sl }

/-- Every state element takes its reset value while `rst` = 1 (R240, R241): the command in progress and a held CMD
write are gone and the DOUT trace is empty. What the host has read, the parameters and the environment's next moves
are no state of the block. -/
def resetBlock (s : State) : State :=
  { State.reset with params := s.params, rst := true, reads := s.reads, inputs := s.inputs }

/-- The platform drives `rst` (R240). -/
def driveRst (level : Bool) (s : State) : State := if level then resetBlock s else { s with rst := false }

end Sys2Proof.Machine
end

