-- ==== Sys2Proof/Machine/Float32.lean ====
section
/-! DEFINITION. Reading a word as an IEEE 754 binary32 value (R12): the block only tests such words and compares
with their exact values. -/

namespace Sys2Proof.Machine

/-- w[30:23]. -/
def expField (w : Word) : Nat := (w.extractLsb' 23 8).toNat

/-- w[22:0]. -/
def fracField (w : Word) : Nat := (w.extractLsb' 0 23).toNat

/-- `isFinitePos` (R12): `w[31] = 0`, `w[30:23] ≠ 0xFF` and `w[30:0] ≠ 0`. -/
def isFinitePos (w : Word) : Bool :=
  !w.getLsbD 31 && expField w != 0xFF && w.extractLsb' 0 31 != 0

/-- The integer significand: the hidden bit is 1 unless the word is a subnormal. -/
def significand (w : Word) : Nat := if expField w = 0 then fracField w else 2 ^ 23 + fracField w

/-- The exponent with its bias: a subnormal has the exponent of the smallest normal. -/
def biasedExp (w : Word) : Nat := max (expField w) 1

/-- `|bin32(w)| · 2^149`, an integer: the smallest subnormal is 2^-149. -/
def bin32Magnitude (w : Word) : Nat := significand w * 2 ^ (biasedExp w - 1)

/-- `bin32(w) · 2^149`, with the sign w[31]. -/
def bin32Scaled (w : Word) : Int := if w.getLsbD 31 then -(bin32Magnitude w : Int) else bin32Magnitude w

/-- The words for which R12 defines `bin32`: `w[30:23] ≠ 0xFF`. -/
def isFinite (w : Word) : Bool := expField w != 0xFF

/-- `bin32(w)` for a word with `isFinite` (R12). PRESUMED (assumption 15): the IEEE 754 layout. -/
def bin32 (w : Word) : ℚ := (bin32Scaled w : ℚ) / 2 ^ 149

end Sys2Proof.Machine
end

