-- ==== Sys2Proof/Machine/Gamma.lean ====
section
/-! DEFINITION. The gamma table (R110 to R112). An entry is the number of thresholds `(2n-1)/510`, n = 1..255,
that `(i/255)^γ` reaches: the nearest integer to `255·(i/255)^γ`, since no tie exists (R111). Whether a threshold
is reached is a comparison of integers once γ = num·2^up / 2^down (`exactAtLeast`). Those integers are too large to
compute with, so `atLeast` first compares 192-bit bounds from below and above, and falls back to the integers only
where the bounds do not decide; `Laws/Gamma.lean` proves that the two agree for every argument. -/

namespace Sys2Proof.Machine

/-- A positive binary32 value as `num · 2^up / 2^down`. -/
structure Exponent where
  num : Nat
  up : Nat
  down : Nat
  deriving DecidableEq, Repr

/-- Cancel up to `fuel` common factors 2 of `m / 2^k`. -/
def cancelTwos : Nat → Nat → Nat → Nat × Nat
  | 0, m, k => (m, k)
  | fuel + 1, m, k => if m % 2 = 0 ∧ 0 < k then cancelTwos fuel (m / 2) (k - 1) else (m, k)

/-- `bin32(w)` as an `Exponent`, for a word with `isFinitePos`. -/
def exponentOf (w : Word) : Exponent :=
  if 150 ≤ biasedExp w then ⟨significand w, biasedExp w - 150, 0⟩
  else
    let c := cancelTwos 24 (significand w) (150 - biasedExp w)
    ⟨c.1, 0, c.2⟩

/-- `t/510 ≤ (i/255)^γ`, both sides raised to `2^down` and cleared of denominators. -/
def exactAtLeast (e : Exponent) (i t : Nat) : Bool :=
  t ^ (2 ^ e.down) * 255 ^ (e.num * 2 ^ e.up) ≤ i ^ (e.num * 2 ^ e.up) * 510 ^ (2 ^ e.down)

/-- The bound `m / 2^s`. -/
structure Approx where
  m : Nat
  s : Nat
  deriving DecidableEq, Repr

/-- The significand length of the bounds, in bits. -/
def precision : Nat := 192

/-- How many bits a product's significand sheds. -/
def shedBits (m s : Nat) : Nat :=
  min (if m < 2 ^ (2 * precision + 1) then precision else precision + 1) s

/-- Shorten a significand, rounding down. -/
def Approx.roundDown (m s : Nat) : Approx := ⟨m / 2 ^ shedBits m s, s - shedBits m s⟩

/-- Shorten a significand, rounding up. -/
def Approx.roundUp (m s : Nat) : Approx := ⟨m / 2 ^ shedBits m s + 1, s - shedBits m s⟩

/-- A lower bound of a product of two lower bounds. -/
def mulDown (a b : Approx) : Approx := .roundDown (a.m * b.m) (a.s + b.s)

/-- An upper bound of a product of two upper bounds. -/
def mulUp (a b : Approx) : Approx := .roundUp (a.m * b.m) (a.s + b.s)

/-- `a^(2^k)`. -/
def squarings (mul : Approx → Approx → Approx) : Nat → Approx → Approx
  | 0, a => a
  | k + 1, a => squarings mul k (mul a a)

/-- `a^n` for `n < 2^fuel`, by squaring. -/
def power (mul : Approx → Approx → Approx) (a : Approx) : Nat → Nat → Approx
  | 0, _ => ⟨1, 0⟩
  | fuel + 1, n =>
    if n = 0 then ⟨1, 0⟩
    else if n = 1 then a
    else
      let h := power mul a fuel (n / 2)
      if n % 2 = 1 then mul (mul h h) a else mul h h

/-- The number of doublings, at most `fuel`, that bring `a/b` to 1 or above. -/
def leadingZeros (b : Nat) : Nat → Nat → Nat
  | 0, _ => 0
  | fuel + 1, a => if b ≤ a then 0 else leadingZeros b fuel (2 * a) + 1

/-- The scale that gives `a/b` a significand of about `precision` bits. -/
def fractionScale (a b : Nat) : Nat := precision + leadingZeros b 10 a

/-- A lower bound of `a/b`. -/
def fractionDown (a b : Nat) : Approx := ⟨a * 2 ^ fractionScale a b / b, fractionScale a b⟩

/-- An upper bound of `a/b`. -/
def fractionUp (a b : Nat) : Approx := ⟨a * 2 ^ fractionScale a b / b + 1, fractionScale a b⟩

/-- Scales this far apart are compared without multiplying out. -/
def scaleGap : Nat := 4096

/-- True only if `b ≤ a`. -/
def Approx.surelyLe (b a : Approx) : Bool :=
  if a.s ≤ b.s then
    if b.s - a.s < scaleGap then b.m ≤ a.m * 2 ^ (b.s - a.s) else 1 ≤ a.m && b.m ≤ 2 ^ scaleGap
  else a.s - b.s < scaleGap && b.m * 2 ^ (a.s - b.s) ≤ a.m

/-- True only if `a < b`. -/
def Approx.surelyLt (a b : Approx) : Bool :=
  if b.s ≤ a.s then
    if a.s - b.s < scaleGap then a.m < b.m * 2 ^ (a.s - b.s) else 1 ≤ b.m && a.m < 2 ^ scaleGap
  else b.s - a.s < scaleGap && a.m * 2 ^ (b.s - a.s) < b.m

/-- Bounds of `(i/255)^(num·2^up)`. -/
def baseBound (mul : Approx → Approx → Approx) (x : Approx) (e : Exponent) : Approx :=
  squarings mul e.up (power mul x 24 e.num)

/-- `t/510 ≤ (i/255)^γ`, decided by bounds where they decide it. -/
def atLeast (e : Exponent) (i t : Nat) : Bool :=
  if (squarings mulUp e.down (fractionUp t 510)).surelyLe (baseBound mulDown (fractionDown i 255) e) then true
  else if (baseBound mulUp (fractionUp i 255) e).surelyLt (squarings mulDown e.down (fractionDown t 510)) then false
  else exactAtLeast e i t

/-- The largest `n` of 0..255 whose threshold `(2n-1)/510` is reached, found bit by bit from `bits`. -/
def thresholdsReached (reaches : Nat → Bool) : List Nat → Nat → Nat
  | [], n => n
  | b :: bits, n =>
    if reaches (2 * (n + b) - 1) then thresholdsReached reaches bits (n + b)
    else thresholdsReached reaches bits n

/-- `roundNearest(255 · (i/255)^γ)` for the exponent of `w`, computed; `0^γ = 0` (R110). -/
def computedEntry (w : Word) (i : Nat) : Nat :=
  if i = 0 then 0 else thresholdsReached (atLeast (exponentOf w) i) [128, 64, 32, 16, 8, 4, 2, 1] 0

/-- gammaTable(0x400CCCCD), gamma 2.2, as R112 prints it. -/
def gamma22Table : List Nat :=
  [0, 0, 0, 0, 0, 0, 0, 0, 0, 0, 0, 0, 0, 0, 0, 1] ++
  [1, 1, 1, 1, 1, 1, 1, 1, 1, 2, 2, 2, 2, 2, 2, 2] ++
  [3, 3, 3, 3, 3, 4, 4, 4, 4, 5, 5, 5, 5, 6, 6, 6] ++
  [6, 7, 7, 7, 8, 8, 8, 9, 9, 9, 10, 10, 11, 11, 11, 12] ++
  [12, 13, 13, 13, 14, 14, 15, 15, 16, 16, 17, 17, 18, 18, 19, 19] ++
  [20, 20, 21, 22, 22, 23, 23, 24, 25, 25, 26, 26, 27, 28, 28, 29] ++
  [30, 30, 31, 32, 33, 33, 34, 35, 35, 36, 37, 38, 39, 39, 40, 41] ++
  [42, 43, 43, 44, 45, 46, 47, 48, 49, 49, 50, 51, 52, 53, 54, 55] ++
  [56, 57, 58, 59, 60, 61, 62, 63, 64, 65, 66, 67, 68, 69, 70, 71] ++
  [73, 74, 75, 76, 77, 78, 79, 81, 82, 83, 84, 85, 87, 88, 89, 90] ++
  [91, 93, 94, 95, 97, 98, 99, 100, 102, 103, 105, 106, 107, 109, 110, 111] ++
  [113, 114, 116, 117, 119, 120, 121, 123, 124, 126, 127, 129, 130, 132, 133, 135] ++
  [137, 138, 140, 141, 143, 145, 146, 148, 149, 151, 153, 154, 156, 158, 159, 161] ++
  [163, 165, 166, 168, 170, 172, 173, 175, 177, 179, 181, 182, 184, 186, 188, 190] ++
  [192, 194, 196, 197, 199, 201, 203, 205, 207, 209, 211, 213, 215, 217, 219, 221] ++
  [223, 225, 227, 229, 231, 234, 236, 238, 240, 242, 244, 246, 248, 251, 253, 255]

/-- gammaTable(0x40200000), gamma 2.5, as R112 prints it. -/
def gamma25Table : List Nat :=
  [0, 0, 0, 0, 0, 0, 0, 0, 0, 0, 0, 0, 0, 0, 0, 0] ++
  [0, 0, 0, 0, 0, 0, 1, 1, 1, 1, 1, 1, 1, 1, 1, 1] ++
  [1, 2, 2, 2, 2, 2, 2, 2, 2, 3, 3, 3, 3, 3, 4, 4] ++
  [4, 4, 4, 5, 5, 5, 5, 6, 6, 6, 6, 7, 7, 7, 7, 8] ++
  [8, 8, 9, 9, 9, 10, 10, 10, 11, 11, 12, 12, 12, 13, 13, 14] ++
  [14, 15, 15, 15, 16, 16, 17, 17, 18, 18, 19, 19, 20, 20, 21, 22] ++
  [22, 23, 23, 24, 25, 25, 26, 26, 27, 28, 28, 29, 30, 30, 31, 32] ++
  [33, 33, 34, 35, 36, 36, 37, 38, 39, 40, 40, 41, 42, 43, 44, 45] ++
  [46, 46, 47, 48, 49, 50, 51, 52, 53, 54, 55, 56, 57, 58, 59, 60] ++
  [61, 62, 63, 64, 65, 67, 68, 69, 70, 71, 72, 73, 75, 76, 77, 78] ++
  [80, 81, 82, 83, 85, 86, 87, 89, 90, 91, 93, 94, 95, 97, 98, 99] ++
  [101, 102, 104, 105, 107, 108, 110, 111, 113, 114, 116, 117, 119, 121, 122, 124] ++
  [125, 127, 129, 130, 132, 134, 135, 137, 139, 141, 142, 144, 146, 148, 150, 151] ++
  [153, 155, 157, 159, 161, 163, 165, 166, 168, 170, 172, 174, 176, 178, 180, 182] ++
  [184, 186, 189, 191, 193, 195, 197, 199, 201, 204, 206, 208, 210, 212, 215, 217] ++
  [219, 221, 224, 226, 228, 231, 233, 235, 238, 240, 243, 245, 248, 250, 253, 255]

/-- gammaTable(0x40333333), gamma 2.8, as R112 prints it. -/
def gamma28Table : List Nat :=
  [0, 0, 0, 0, 0, 0, 0, 0, 0, 0, 0, 0, 0, 0, 0, 0] ++
  [0, 0, 0, 0, 0, 0, 0, 0, 0, 0, 0, 0, 1, 1, 1, 1] ++
  [1, 1, 1, 1, 1, 1, 1, 1, 1, 2, 2, 2, 2, 2, 2, 2] ++
  [2, 3, 3, 3, 3, 3, 3, 3, 4, 4, 4, 4, 4, 5, 5, 5] ++
  [5, 6, 6, 6, 6, 7, 7, 7, 7, 8, 8, 8, 9, 9, 9, 10] ++
  [10, 10, 11, 11, 11, 12, 12, 13, 13, 13, 14, 14, 15, 15, 16, 16] ++
  [17, 17, 18, 18, 19, 19, 20, 20, 21, 21, 22, 22, 23, 24, 24, 25] ++
  [25, 26, 27, 27, 28, 29, 29, 30, 31, 32, 32, 33, 34, 35, 35, 36] ++
  [37, 38, 39, 39, 40, 41, 42, 43, 44, 45, 46, 47, 48, 49, 50, 50] ++
  [51, 52, 54, 55, 56, 57, 58, 59, 60, 61, 62, 63, 64, 66, 67, 68] ++
  [69, 70, 72, 73, 74, 75, 77, 78, 79, 81, 82, 83, 85, 86, 87, 89] ++
  [90, 92, 93, 95, 96, 98, 99, 101, 102, 104, 105, 107, 109, 110, 112, 114] ++
  [115, 117, 119, 120, 122, 124, 126, 127, 129, 131, 133, 135, 137, 138, 140, 142] ++
  [144, 146, 148, 150, 152, 154, 156, 158, 160, 162, 164, 167, 169, 171, 173, 175] ++
  [177, 180, 182, 184, 186, 189, 191, 193, 196, 198, 200, 203, 205, 208, 210, 213] ++
  [215, 218, 220, 223, 225, 228, 231, 233, 236, 239, 241, 244, 247, 249, 252, 255]

/-- `gammaTable(w)[i]` (R110): for the preset exponents the tables that R112 gives, else computed. -/
def gammaEntry (w : Word) (i : Nat) : Nat :=
  if w = 0x400CCCCD then gamma22Table.getD i 0
  else if w = 0x40200000 then gamma25Table.getD i 0
  else if w = 0x40333333 then gamma28Table.getD i 0
  else computedEntry w i

/-- `gammaTable(w)`, the 256 entries (R110). -/
def gammaTable (w : Word) : Vector Byte 256 :=
  ⟨((List.range 256).map fun i => BitVec.ofNat 8 (gammaEntry w i)).toArray, by simp⟩

end Sys2Proof.Machine
end

