-- ==== Sys2Proof/Machine/Pipeline.lean ====
section
/-! DEFINITION. The three-stage correction pipeline and the upkeep of the GammaLUT (R105 to R109, R113 to R116). -/

namespace Sys2Proof.Machine

/-- One lane of the noise stage (R106). -/
def noiseChannel (cfg : CorrConfig) (c : Byte) : Byte :=
  if 0 < c.toNat ∧ c.toNat < cfg.noiseThr.toNat then 0 else c

/-- The noise stage (R106). -/
def noiseStage (cfg : CorrConfig) (c : Rgb) : Rgb :=
  if cfg.enNoise then ⟨noiseChannel cfg c.r, noiseChannel cfg c.g, noiseChannel cfg c.b⟩ else c

/-- M (R107), with the parameter `P_MAX_INCLUDES_BLUE`. -/
def maxChannel (p : Config.Params) (c : Rgb) : Nat :=
  if p.maxIncludesBlue then max (max c.r.toNat c.g.toNat) c.b.toNat else max c.r.toNat c.g.toNat

/-- m, over all three channels (R107). -/
def minChannel (c : Rgb) : Nat := min (min c.r.toNat c.g.toNat) c.b.toNat

/-- `M / m > bin32(ratio)`, exactly, as `M > ratio · m` (R108). -/
def ratioExceeds (ratio : Word) (M m : Nat) : Bool := bin32Scaled ratio * m < M * 2 ^ 149

/-- Zero a channel that is not the dominant one when `4·c < M` (R108). -/
def zeroIfSmall (M : Nat) (dominant : Bool) (c : Byte) : Byte :=
  if dominant = false ∧ 4 * c.toNat < M then 0 else c

/-- The zeroing step: the dominant channel is the first of red, green, blue whose value is M (R108). -/
def zeroOthers (M : Nat) (c : Rgb) : Rgb :=
  let red := c.r.toNat == M
  let green := !red && c.g.toNat == M
  let blue := !red && !green && c.b.toNat == M
  ⟨zeroIfSmall M red c.r, zeroIfSmall M green c.g, zeroIfSmall M blue c.b⟩

/-- The ratio test and the zeroing (R108), guarded by `M > 100` and `m > 0`. -/
def purify (p : Config.Params) (cfg : CorrConfig) (c : Rgb) : Rgb :=
  let M := maxChannel p c
  let m := minChannel c
  if 100 < M ∧ 0 < m then (if ratioExceeds cfg.ratio M m then zeroOthers M c else c) else c

/-- White snap (R109). -/
def whiteSnap (c : Rgb) : Rgb :=
  if 240 < c.r.toNat ∧ 240 < c.g.toNat ∧ 240 < c.b.toNat then ⟨255, 255, 255⟩ else c

/-- The purification stage (R108, R109). -/
def purifyStage (p : Config.Params) (cfg : CorrConfig) (c : Rgb) : Rgb :=
  if cfg.enPur then whiteSnap (purify p cfg c) else c

/-- A GammaLUT entry. -/
def lutAt (lut : Lut) (c : Byte) : Byte := lut[c.toNat]'c.isLt

/-- The gamma stage on a table that has been built (R113). -/
def gammaStage (cfg : CorrConfig) (lut : Lut) (c : Rgb) : Rgb :=
  if cfg.enGamma then ⟨lutAt lut c.r, lutAt lut c.g, lutAt lut c.b⟩ else c

/-- BuildLUT (R114). -/
def buildLut (s : State) : State := { s with lut := gammaTable s.cfg.gamma, lutValid := true }

/-- CommitLUT, the end of CONFIGURE and PRESET (R114). -/
def commitLut (old : Word) (s : State) : State :=
  if s.cfg.enGamma then buildLut s
  else if s.cfg.gamma ≠ old then { s with lutValid := false }
  else s

/-- The lazy build: the gamma stage builds the LUT before it reads one that is not valid (R113, R116). -/
def lazyBuild (s : State) : State := if s.cfg.enGamma && !s.lutValid then buildLut s else s

/-- `correct(r, g, b)` in a state whose LUT the lazy build has seen to (R105). -/
def correctColor (s : State) (c : Rgb) : Rgb :=
  gammaStage s.cfg s.lut (purifyStage s.params s.cfg (noiseStage s.cfg c))

end Sys2Proof.Machine
end

