-- ==== Sys2Proof/Machine/Address.lean ====
section
/-! DEFINITION. The address decoder and the frame-buffer commands: DECODE, WRPIX, WRPIXRAW, WRSLOTRAW (R140 to
R147). -/

namespace Sys2Proof.Machine

/-- `isValid(x, y)` (R140). -/
def isValid (x y : Byte) : Bool := x.toNat < Config.width && y.toNat < Config.height

/-- `index(x, y)` for valid coordinates: the reversed serpentine (R141). -/
def index (x y : Byte) : Nat :=
  if y.toNat % 2 = 0 then 24 - (5 * y.toNat + x.toNat) else 24 - (5 * y.toNat + 4 - x.toNat)

/-- `index⁻¹(s)`, the coordinates `(x, y)` of a slot (R144). -/
def indexInverse (slot : Nat) : Nat × Nat :=
  let k := 24 - slot
  if (k / 5) % 2 = 0 then (k % 5, k / 5) else (4 - k % 5, k / 5)

/-- DECODE's result: `{VALID, 26'b0, SLOT[4:0]}`, or 0x1F for coordinates that map to no slot (R142). -/
def decodeResult (x y : Byte) : Word :=
  if isValid x y then (1#1) ++ (0#26) ++ BitVec.ofNat 5 (index x y) else 0x0000001F

/-- DECODE (R142). -/
def execDecode (x y : Byte) (s : State) : Result := .next (complete { s with result := decodeResult x y })

/-- WRPIX (R145): with invalid coordinates nothing changes and no lazy build happens. -/
def execWrpix (x y : Byte) (s : State) : Result :=
  if isValid x y then
    let s' := lazyBuild s
    .next (complete (writeSlot (index x y) (correctColor s' (operands s).color).toSlot s'))
  else .next (complete s)

/-- WRPIXRAW (R146). -/
def execWrpixraw (x y : Byte) (s : State) : Result :=
  if isValid x y then .next (complete (writeSlot (index x y) (operands s).color.toSlot s))
  else .next (complete s)

/-- WRSLOTRAW (R147): a slot of 25 or above is silently ignored. -/
def execWrslotraw (slot : Byte) (s : State) : Result :=
  if slot.toNat < Config.count then .next (complete (writeSlot slot.toNat (operands s).color.toSlot s))
  else .next (complete s)

end Sys2Proof.Machine
end

