-- ==== Sys2Proof/Machine/Bus.lean ====
section
/-! DEFINITION. The host's bus accesses (R53, R56 to R58, R78). Reads and register writes are accepted whether or
not a command is in progress (R58). -/

namespace Sys2Proof.Machine

/-- Write CMD (R57): accepted when no command is in progress, else held with `bus_ready` = 0. While `rst` = 1 it
completes with no effect (R240). -/
def execBusWCmd (wdata : Word) (s : State) : Result :=
  busWrite (fun s => if busy s then { s with held := some wdata } else accept wdata s) s

/-- Read CMD: write-only, returns 0 (R53). -/
def execBusRCmd (s : State) : Result := busRead 0 s

/-- Read STATUS (R23). -/
def execBusRStatus (s : State) : Result := busRead (statusWord s) s

/-- Write STATUS (R23). -/
def execBusWStatus (wdata : Word) (s : State) : Result := busWrite (writeStatus wdata) s

/-- Read COLOR (R25). -/
def execBusRColor (s : State) : Result := busRead s.color.toWord s

/-- Write COLOR (R25). -/
def execBusWColor (wdata : Word) (s : State) : Result :=
  busWrite (fun s => { s with color := Rgb.ofWord wdata }) s

/-- Read RESULT (R26). -/
def execBusRResult (s : State) : Result := busRead s.result s

/-- Write STG_GAMMA: any value (R27). -/
def execBusWStgGamma (wdata : Word) (s : State) : Result :=
  busWrite (fun s => { s with stgGamma := wdata }) s

/-- Write STG_RATIO: any value (R27). -/
def execBusWStgRatio (wdata : Word) (s : State) : Result :=
  busWrite (fun s => { s with stgRatio := wdata }) s

/-- Write STG_CFG[10:0] (R27). -/
def execBusWStgCfg (wdata : Word) (s : State) : Result :=
  busWrite (fun s => { s with stgCfg := wdata.extractLsb' 0 11 }) s

/-- Read STG_GAMMA: write-only, returns 0 (R27). -/
def execBusRStgGamma (s : State) : Result := busRead 0 s

/-- Read STG_RATIO: write-only, returns 0 (R27). -/
def execBusRStgRatio (s : State) : Result := busRead 0 s

/-- Read STG_CFG: write-only, returns 0 (R27). -/
def execBusRStgCfg (s : State) : Result := busRead 0 s

/-- Read FBDATA[n] (R30, R148). -/
def execBusRFbdata (n : BitVec 5) (s : State) : Result := busRead (fbWord s.fb n.toNat) s

/-- A reserved offset, or a write to a read-only register (R53): a read returns 0, a write has no effect. -/
def execBusReserved (w : Bool) (_a : BitVec 6) (s : State) : Result :=
  if w then busWrite id s else busRead 0 s

end Sys2Proof.Machine
end

