-- ==== Sys2Proof/Machine/Color.lean ====
section
/-! DEFINITION. The colour-correction unit's commands: CONFIGURE, PRESET, CORRECT (R100 to R104). -/

namespace Sys2Proof.Machine

/-- CONFIGURE (R100, R101): both floats are checked before any state is written. -/
def execConfigure (s : State) : Result :=
  let o := operands s
  if isFinitePos o.stgGamma && isFinitePos o.stgRatio then
    .next (complete (commitLut s.cfg.gamma { s with cfg := stagedConfig o.stgGamma o.stgRatio o.stgCfg }))
  else raise .badConfig s

/-- PRESET_TABLE (R103). -/
def presetTable (mode : Nat) : Option CorrConfig :=
  match mode with
  | 0 => some ⟨0x3F800000, 0, 0x3F800000, false, false, false⟩
  | 1 => some ⟨0x400CCCCD, 10, 0x40C00000, true, true, false⟩
  | 2 => some ⟨0x400CCCCD, 15, 0x41000000, true, true, true⟩
  | 3 => some ⟨0x40200000, 25, 0x41200000, true, true, true⟩
  | 4 => some ⟨0x40333333, 40, 0x41700000, true, true, true⟩
  | _ => none

/-- PRESET (R102). -/
def execPreset (mode : Byte) (s : State) : Result :=
  match presetTable mode.toNat with
  | some c => .next (complete (commitLut s.cfg.gamma { s with cfg := c }))
  | none => raise .badPreset s

/-- CORRECT (R104). -/
def execCorrect (s : State) : Result :=
  let s' := lazyBuild s
  .next (complete { s' with result := (correctColor s' (operands s).color).toWord })

end Sys2Proof.Machine
end

