-- ==== Sys2Proof/Machine/Control.lean ====
section
/-! DEFINITION. NOP and the reserved opcodes (R200, R212). -/

namespace Sys2Proof.Machine

/-- NOP: no effect but its own BUSY (R200). -/
def execNop (s : State) : Result := .next (complete s)

/-- A reserved opcode raises CmdError(1) and has no other effect (R75, R212). -/
def execReservedOpc (_opc : Byte) (s : State) : Result := raise .reservedOpc s

end Sys2Proof.Machine
end

