-- ==== Sys2Proof/Machine/Transmit.lean ====
section
/-! DEFINITION. The transmitter: INIT and FLUSH (R175, R180), the frame's bits (R172), the line events by which the
TX works a frame off (R31, R173 to R178), and the waveform they make. -/

namespace Sys2Proof.Machine

/-- A byte, most significant bit first (R172). PRESUMED by the spec itself (assumption 16). -/
def byteBits (b : Byte) : List Bool := [7, 6, 5, 4, 3, 2, 1, 0].map b.getLsbD

/-- `slotBits`: green, then red, then blue (R172). -/
def slotBits (sl : Slot) : List Bool := byteBits sl.g ++ byteBits sl.r ++ byteBits sl.b

/-- `frameBits(FB)`, 600 bits in slot order 0..24 (R172). -/
def frameBits (fb : FrameBuffer) : List Bool := fb.toList.flatMap slotBits

/-- What a transmitting command has still to append to the trace: the frame and its latch, or only the latch once
the line is in its latch period (R171, R175, R180). -/
def remainingEvents (s : State) (fb : FrameBuffer) : List Event :=
  if s.txPhase = .latch then [.latch] else [.frame (frameBits fb), .latch]

/-- A transmitting command completes: the frame and the latch are in the trace, the counters stand at the last bit
of the last slot, the line is low and the TX idle (R175). -/
def completeFrame (fb : FrameBuffer) (s : State) : State :=
  complete { s with trace := s.trace ++ remainingEvents s fb, txPhase := .idle, txSlot := 24, txBit := 0, dout := false }

/-- INIT (R180): enable the output, clear the FB, send one all-zero frame and latch. -/
def execInit (s : State) : Result := .next (completeFrame blackFrame { s with txEn := true, fb := blackFrame })

/-- FLUSH (R175); before INIT it sends nothing and records error 4 (R176). -/
def execFlush (s : State) : Result :=
  if s.txEn then .next (completeFrame s.fb s) else raise .txNotInit s

/-- The frame the TX is to send for the command in progress (R31's snapshot): the FB for a FLUSH, all zeros for an
INIT, whose FB is visibly cleared only at its completion (R59; assumption 8); none for any other command. -/
def txSource (s : State) : Option FrameBuffer :=
  match s.pending with
  | none => none
  | some p =>
    if decodeCommand p.word = .init then some blackFrame
    else if decodeCommand p.word = .flush ∧ s.txEn = true then some s.fb
    else none

/-- The first bit of the frame begins: `tx_slot` = 0, `tx_bit` = 23, and the line rises (R173, R175). -/
def startFrame (s : State) : State := { s with txPhase := .data, txSlot := 0, txBit := 23, dout := true }

/-- What follows the low part of a bit: the next bit rises at once (R174), or after the last bit the Frame event is
recorded and the latch period begins (R175, R178). -/
def nextBit (fb : FrameBuffer) (s : State) : State :=
  if 0 < s.txBit.val then { s with txBit := ⟨s.txBit.val - 1, by omega⟩, dout := true }
  else if h : s.txSlot.val < 24 then { s with txSlot := ⟨s.txSlot.val + 1, by omega⟩, txBit := 23, dout := true }
  else { s with txPhase := .latch, trace := s.trace ++ [.frame (frameBits fb)] }

/-- One line event of the frame in progress (R173, R175, R180). INIT begins with a low period, `LEAD`. The end of
the latch period is the command's completion (R178) and stands in `Machine/Engine.lean`. -/
def txAdvance (s : State) : State :=
  match txSource s with
  | none => s
  | some fb =>
    match s.txPhase with
    | .idle =>
      if (s.pending.map fun p => decodeCommand p.word) = some .init then { s with txPhase := .lead, dout := false }
      else startFrame s
    | .lead => startFrame s
    | .data => if s.dout then { s with dout := false } else nextBit fb s
    | .latch => s

/-- `dout_oe` equals STATUS.TX_EN at all times (R31, R50, R170). Both rise at INIT's completion, where R57, R59 and
R76 put every effect of a command (assumption 7). -/
def doutOe (s : State) : Bool := s.txEn

/-- The bit being sent: `FBDATA[tx_slot][tx_bit]` of the snapshot (R175). -/
def txBitValue (s : State) (fb : FrameBuffer) : Bool := (fbWord fb s.txSlot.val).getLsbD s.txBit.val

/-- `tH`, the high time of a bit (R173). -/
def highTime (p : Config.Params) (v : Bool) : Nat := if v then p.t1h else p.t0h

/-- How long the line keeps its present level while a frame is sent, in nanoseconds (R173, R175, R180). -/
def lineHold (s : State) : Option Nat :=
  match txSource s with
  | none => none
  | some fb =>
    match s.txPhase with
    | .idle => none
    | .lead => some s.params.tLatch
    | .data =>
      if s.dout then some (highTime s.params (txBitValue s fb))
      else some (s.params.tBit - highTime s.params (txBitValue s fb))
    | .latch => some s.params.tLatch

/-- `SendBit(v)` as line levels with their durations (R173). -/
def sendBit (p : Config.Params) (v : Bool) : List (Bool × Nat) :=
  [(true, highTime p v), (false, p.tBit - highTime p v)]

/-- The waveform of a frame and its latch: the bits back to back, then low for T_LATCH (R174, R175). -/
def frameWaveform (p : Config.Params) (bits : List Bool) : List (Bool × Nat) :=
  bits.flatMap (sendBit p) ++ [(false, p.tLatch)]

/-- The LED chain's latched frame: the bits of the last Frame that a Latch has followed (R178, R244; assumption
17). `sent` is the frame received since the last latch, `shown` the frame now shown. -/
def shownFrom (sent shown : Option (List Bool)) : List Event → Option (List Bool)
  | [] => shown
  | .frame bits :: rest => shownFrom (some bits) shown rest
  | .latch :: rest => shownFrom none (sent.or shown) rest

/-- What the LEDs show after a trace. -/
def shown (trace : List Event) : Option (List Bool) := shownFrom none none trace

end Sys2Proof.Machine
end

