-- ==== Sys2Proof/Machine/Dispatch.lean ====
section
/-! DEFINITION. One arm per constructor of `Instr`. -/

namespace Sys2Proof.Machine

def exec (i : Instr) (s : State) : Host.Outcome State Fault Refusal :=
  match i with
  | .nop => Sys2Proof.Machine.execNop s
  | .init => Sys2Proof.Machine.execInit s
  | .configure => Sys2Proof.Machine.execConfigure s
  | .preset mode => Sys2Proof.Machine.execPreset mode s
  | .correct => Sys2Proof.Machine.execCorrect s
  | .decode x y => Sys2Proof.Machine.execDecode x y s
  | .wrpix x y => Sys2Proof.Machine.execWrpix x y s
  | .wrpixraw x y => Sys2Proof.Machine.execWrpixraw x y s
  | .wrslotraw slot => Sys2Proof.Machine.execWrslotraw slot s
  | .flush => Sys2Proof.Machine.execFlush s
  | .reservedOpc opc => Sys2Proof.Machine.execReservedOpc opc s
  | .busWCmd wdata => Sys2Proof.Machine.execBusWCmd wdata s
  | .busRCmd => Sys2Proof.Machine.execBusRCmd s
  | .busRStatus => Sys2Proof.Machine.execBusRStatus s
  | .busWStatus wdata => Sys2Proof.Machine.execBusWStatus wdata s
  | .busRColor => Sys2Proof.Machine.execBusRColor s
  | .busWColor wdata => Sys2Proof.Machine.execBusWColor wdata s
  | .busRResult => Sys2Proof.Machine.execBusRResult s
  | .busWStgGamma wdata => Sys2Proof.Machine.execBusWStgGamma wdata s
  | .busWStgRatio wdata => Sys2Proof.Machine.execBusWStgRatio wdata s
  | .busWStgCfg wdata => Sys2Proof.Machine.execBusWStgCfg wdata s
  | .busRStgGamma => Sys2Proof.Machine.execBusRStgGamma s
  | .busRStgRatio => Sys2Proof.Machine.execBusRStgRatio s
  | .busRStgCfg => Sys2Proof.Machine.execBusRStgCfg s
  | .busRFbdata n => Sys2Proof.Machine.execBusRFbdata n s
  | .busReserved w a => Sys2Proof.Machine.execBusReserved w a s

end Sys2Proof.Machine
end

