-- ==== Sys2Proof/Machine/Engine.lean ====
section
/-! DEFINITION. Who moves next (R20, R21, R57): the command engine, the transmitter, the host, the platform's `rst`. -/

namespace Sys2Proof.Machine

/-- The command engine's move: complete the command in progress; else accept a held CMD write, in the cycle after
BUSY fell (R57); else idle (R222). While `rst` = 1 nothing moves (R240). -/
def engineStep (s : State) : Result :=
  if s.rst then .next s
  else
    match s.pending with
    | some p => exec (decodeCommand p.word) s
    | none =>
      match s.held with
      | some w => exec (.busWCmd w) { s with held := none }
      | none => .next s

/-- The transmitter's move: one line event, and at the end of the latch period the completion of the command
(R31, R59, R178). -/
def txStep (s : State) : Result :=
  if s.rst then .next s
  else
    match txSource s, s.txPhase with
    | some _, .latch => engineStep s
    | _, _ => .next (txAdvance s)

/-- The move at the head of the environment's list. A bus transaction does not start while a CMD write is held
(R60, R251): the list keeps it, and the engine moves. -/
def inputStep (i : Input) (rest : List Input) (s : State) : Result :=
  match i with
  | .bus request =>
    if s.held.isSome then engineStep s
    else exec (decodeRequest request.write request.addr request.wdata) { s with inputs := rest }
  | .engine => engineStep { s with inputs := rest }
  | .tx => txStep { s with inputs := rest }
  | .rst level => .next (driveRst level { s with inputs := rest })

/-- The host's bus transaction in a fetch of the 7-bit pattern and the write data (R78). -/
def requestOf (pattern : Byte) (wdata : Word) : BusRequest :=
  ⟨pattern.getLsbD 6, pattern.extractLsb' 0 6, wdata⟩

/-- Make an instruction the one the next step runs (assumption 10). A command word stands as the command in
progress, just accepted, with the TX idle and the engine to move; a bus access is the host's next transaction. -/
def place (f : Fetched) (s : State) : State :=
  match f with
  | .command w =>
    { s with rst := false, held := none, pending := some (latchOperands w s), txPhase := .idle, dout := false,
             inputs := .engine :: s.inputs }
  | .access pattern wdata =>
    { s with rst := false, held := none, inputs := .bus (requestOf pattern wdata) :: s.inputs }

end Sys2Proof.Machine
end

