-- ==== Sys2Proof/Machine/Step.lean ====
section
/-! DEFINITION. One step: the environment's next move, or with none left the engine's (assumption 1). -/

namespace Sys2Proof.Machine

/-- The step. It fetches nothing from a memory (R62): what it runs is the command in progress or the host's next
transaction. -/
def step (s : State) : Host.Outcome State Fault Refusal :=
  match s.inputs with
  | [] => engineStep s
  | i :: rest => inputStep i rest s

/-- The state whose next step runs exactly the instruction with these bits (assumption 10). -/
def State.withFetchWord (s : State) (nbits w : Nat) : State :=
  match fetchedOfBits nbits w with
  | .ok f => place f s
  | .error _ => s

end Sys2Proof.Machine
end

