-- ==== Sys2Proof/Machine/Timing.lean ====
section
/-! DEFINITION. How long each command keeps BUSY = 1 (R177, R250), and durations in clock cycles (R173), for every
choice of the parameters of R8. Timing only: no meaning reads these (assumption 18). -/

namespace Sys2Proof.Machine

/-- A duration as a count of `L_CMD`, `L_LUT`, `T_BIT` and `T_LATCH`. -/
structure Duration where
  cmd : Nat
  lut : Nat
  bits : Nat
  latches : Nat
  deriving DecidableEq, Repr

/-- A LUT build takes `L_LUT`. -/
def lutTime (builds : Bool) : Duration := ⟨1, if builds then 1 else 0, 0, 0⟩

/-- R250's table; a bus access is no command. -/
def busyTime (i : Instr) (s : State) : Option Duration :=
  match i with
  | .nop | .decode _ _ | .wrpixraw _ _ | .wrslotraw _ | .reservedOpc _ => some (lutTime false)
  | .correct => some (lutTime (s.cfg.enGamma && !s.lutValid))
  | .wrpix x y => some (lutTime (isValid x y && (s.cfg.enGamma && !s.lutValid)))
  | .configure =>
    let o := operands s
    some (lutTime (isFinitePos o.stgGamma && isFinitePos o.stgRatio && o.stgCfg.getLsbD 8))
  | .preset mode => some (lutTime (((presetTable mode.toNat).map CorrConfig.enGamma).getD false))
  | .flush => some (if s.txEn then ⟨1, 0, 600, 1⟩ else lutTime false)
  | .init => some ⟨1, 0, 600, 2⟩
  | .busWCmd _ | .busRCmd | .busRStatus | .busWStatus _ | .busRColor | .busWColor _ | .busRResult
  | .busWStgGamma _ | .busWStgRatio _ | .busWStgCfg _ | .busRStgGamma | .busRStgRatio | .busRStgCfg
  | .busRFbdata _ | .busReserved _ _ => none

/-- A duration in nanoseconds: `L_CMD` and `L_LUT` are cycles of a clock of frequency `F_CLK`. -/
def Duration.nanoseconds (q : Config.Platform) (p : Config.Params) (d : Duration) : ℚ :=
  (d.cmd * q.lCmd + d.lut * q.lLut) * (10 ^ 9 / q.fClk) + d.bits * p.tBit + d.latches * p.tLatch

/-- How long a command keeps BUSY = 1, in nanoseconds (R177, R250). -/
def busyNanoseconds (q : Config.Platform) (i : Instr) (s : State) : Option ℚ :=
  (busyTime i s).map (Duration.nanoseconds q s.params)

/-- A duration in clock cycles: its value times `F_CLK`, rounded to a whole number by the implementation (R173);
`round` is the implementation's. -/
def cyclesOf (round : ℚ → Nat) (q : Config.Platform) (nanoseconds : Nat) : Nat :=
  round (nanoseconds * q.fClk / 10 ^ 9)

/-- A waveform in clock cycles (R173). -/
def waveformCycles (round : ℚ → Nat) (q : Config.Platform) (levels : List (Bool × Nat)) : List (Bool × Nat) :=
  levels.map fun l => (l.1, cyclesOf round q l.2)

end Sys2Proof.Machine
end

