-- ==== Sys2Proof/Safety.lean ====
section
/-! DEFINITION. The terms the claims are stated in: the reset values the spec gives, the invariant of the block, the
pipeline as R117 and R121 describe it, and states that differ in a stale LUT only. -/

namespace Sys2Proof.Safety

open Sys2Proof.Machine

/-- The values R241 gives for reset. The LUT contents, `tx_slot` and `tx_bit` are not among them: R241 leaves them
unspecified, and their values are the model's own (assumptions 5 and 6). -/
structure AtResetValues (s : State) : Prop where
  idle : s.pending = none
  disabled : s.txEn = false
  outputOff : doutOe s = false
  lineLow : s.dout = false
  noLut : s.lutValid = false
  noErr : s.err = false
  noErrCode : s.errCode = 0
  color : s.color = ⟨0, 0, 0⟩
  result : s.result = 0
  stgGamma : s.stgGamma = 0x400CCCCD
  stgRatio : s.stgRatio = 0x41000000
  stgCfg : s.stgCfg = 0x70F
  cfg : s.cfg = { gamma := 0x400CCCCD, noiseThr := 15, ratio := 0x41000000, enGamma := true, enNoise := true, enPur := true }
  fb : ∀ n, fbWord s.fb n = 0
  txPhase : s.txPhase = .idle
  trace : s.trace = []

/-- What holds of every reachable state of the block. -/
structure Inv (s : State) : Prop where
  /-- CFG never holds an illegal value (R24). -/
  legalGamma : isFinitePos s.cfg.gamma = true
  legalRatio : isFinitePos s.cfg.ratio = true
  /-- LUT_VALID = 1 means that the LUT is the table of CFG.GAMMA (R28). -/
  lutFresh : s.lutValid = true → s.lut = gammaTable s.cfg.gamma
  /-- ERR_CODE is 0 exactly while ERR is clear, and never a reserved code (R210). -/
  errCode : s.err = true ↔ s.errCode ≠ 0
  knownCode : s.errCode.toNat ≤ 4
  /-- The TX is idle unless a FLUSH or an INIT is in progress (R20, R31), and only an INIT has a LEAD (R180). -/
  txOwned : s.txPhase ≠ .idle → (txSource s).isSome = true
  leadIsInit : s.txPhase = .lead → (s.pending.map fun p => decodeCommand p.word) = some .init
  /-- DOUT is 0 whenever no bit is being sent (R31). -/
  lineLow : s.dout = true → s.txPhase = .data
  /-- While `rst` = 1 every state element is at its reset value, and no CMD write is held (R240). -/
  inReset : s.rst = true → AtResetValues s ∧ s.held = none

/-- `correct(r, g, b)` as R117 lets a model define it: a function of the input, CFG and the parameter only (R121).
With EN_GAMMA = 1 each channel of the purified colour is looked up in the table of CFG.GAMMA; with EN_GAMMA = 0 it is
kept (R113). -/
def pureCorrect (p : Config.Params) (cfg : CorrConfig) (c : Rgb) : Rgb :=
  let v := purifyStage p cfg (noiseStage cfg c)
  let table := gammaTable cfg.gamma
  if cfg.enGamma then { r := table[v.r.toNat], g := table[v.g.toNat], b := table[v.b.toNat] } else v

/-- Two states that agree on every element except the LUT contents, with LUT_VALID = 0 in both (R33). -/
def SameButStaleLut (s t : State) : Prop := t = { s with lut := t.lut } ∧ s.lutValid = false

end Sys2Proof.Safety
end

