-- ==== Sys2Proof/Certificates/Slice0/Obligations.lean ====
section
/-! DEFINITION. The statements for the provers, from the numbered rules of the spec. Where a statement rests on a
choice of the model, its docstring names the log entry. -/

open Sys2Proof Sys2Proof.Machine Sys2Proof.Safety

/-! ## Encoding -/

/-- R70, R71, R74, R78: no bit of an operand is lost between encoding and decoding, for every instruction. -/
def Obligations.DecodeOfEncodeIsTheInstruction : Prop :=
  ∀ i : Instr, i.wf = true → decode (encode i) = .ok i

/-- R72: flipping reserved bits of a command word changes nothing. Bits 23..16 are reserved in every format, bits
15..8 in formats S and M (PRESET, WRSLOTRAW), and bits 23..0 in format N and under a reserved OPC (R70, R74). -/
def Obligations.ReservedCommandBitsAreIgnored : Prop :=
  ∀ w r : Word,
    decodeCommand (w ^^^ (r &&& 0x00FF0000)) = decodeCommand w ∧
    (w >>> 24 = 3 ∨ w >>> 24 = 8 → decodeCommand (w ^^^ (r &&& 0x00FFFF00)) = decodeCommand w) ∧
    (w >>> 24 = 0 ∨ w >>> 24 = 1 ∨ w >>> 24 = 2 ∨ w >>> 24 = 4 ∨ 9 ≤ w >>> 24 →
      decodeCommand (w ^^^ (r &&& 0x00FFFFFF)) = decodeCommand w)

/-- R74, R75, R78: both maps are complete; a CMD word is a reserved opcode exactly when OPC is 0x0A or above, and what
either decoder answers is well formed. -/
def Obligations.EveryPatternDecodesToAWellFormedInstruction : Prop :=
  (∀ w : Word, (decodeCommand w).wf = true ∧
    (decodeCommand w = .reservedOpc (w.extractLsb' 24 8) ↔ 0x0A000000 ≤ w.toNat)) ∧
  ∀ write addr wdata, (decodeRequest write addr wdata).wf = true

/-- R74, R78: words written out from the encodings decode to their instructions. The last clause is the model's choice,
no rule's: a byte with bit 7 set is no pattern byte `0 W AAAAAA` (assumption 10). -/
def Obligations.WrittenOutWordsDecode : Prop :=
  decode (.command 0x00FFFFFF) = .ok .nop ∧ decode (.command 0x05AB0103) = .ok (.decode 3 1) ∧
  decode (.command 0x08000018) = .ok (.wrslotraw 24) ∧ decode (.command 0xFF123456) = .ok (.reservedOpc 0xFF) ∧
  decode (.access 0b01000010 0xFF123456) = .ok (.busWColor 0xFF123456) ∧
  decode (.access 0b00111000 0) = .ok (.busRFbdata 24) ∧
  decode (.access 0b00111001 0) = .ok (.busReserved false 57) ∧ decode (.access 0b10000000 0) = .error .patternTooWide

/-! ## A step -/

/-- R20, R76: the command engine's move runs the command in progress, whichever way the move comes: the environment
schedules it, nothing is scheduled, or the host's transaction waits behind a held CMD write (assumption 1). -/
def Obligations.EngineMoveRunsTheCommandInProgress : Prop :=
  ∀ (s : State) (p : Pending) (i : Instr), s.rst = false → s.pending = some p → decode (.command p.word) = .ok i →
    (∀ rest, s.inputs = .engine :: rest → step s = exec i { s with inputs := rest }) ∧
    (s.inputs = [] → step s = exec i s) ∧
    (∀ r rest, s.inputs = .bus r :: rest → s.held ≠ none → step s = exec i s)

/-- R51, R78: with no CMD write held, a step runs the host's next bus transaction and takes it off the list. The list of
moves is the model's choice (assumption 1), and so is its form of the wait behind a held write (assumption 23). -/
def Obligations.BusTransactionRunsItsAccess : Prop :=
  ∀ (s : State) (r : BusRequest) (rest : List Input) (i : Instr), s.held = none → s.inputs = .bus r :: rest →
    decode (.access (patternByte r.write r.addr) r.wdata) = .ok i →
    step s = exec i { s with inputs := rest }

/-- R31, R178: the transmitter's move is one line event, and at the end of the latch period it is the completion of the
command (assumption 14). -/
def Obligations.TransmitterMoveIsALineEventOrCompletion : Prop :=
  ∀ (s : State) (p : Pending) (rest : List Input), s.rst = false → s.pending = some p → s.inputs = .tx :: rest →
    (s.txPhase ≠ .latch → step s = .next (txAdvance { s with inputs := rest })) ∧
    (s.txPhase = .latch → (txSource s).isSome = true →
      step s = exec (decodeCommand p.word) { s with inputs := rest })

/-- R56, R211, R216: the block never stops: no bus error, no trap, no command that cannot complete. -/
def Obligations.EveryStepAnswersANextState : Prop :=
  (∀ i s, ∃ t, exec i s = .next t) ∧ ∀ s, ∃ t, step s = .next t

/-- R8: the parameters are the machine's, and no step changes them (assumptions 3 and 4). -/
def Obligations.NoStepChangesTheParameters : Prop :=
  ∀ s t : State, step s = .next t → t.params = s.params

/-! ## Reset -/

/-- R241: the reset values. The LUT contents and the TX counters, unspecified there, are not claimed. -/
def Obligations.ResetStateHasTheResetValues : Prop := AtResetValues State.reset

/-- R240: driving `rst` to 1 gives every element its reset value, whatever was in progress: the command in progress is
abandoned, a held CMD write is gone, the trace is empty (R32). What the host has read and will do stays (assumption 13). -/
def Obligations.RstTakesEveryElementToItsResetValue : Prop :=
  ∀ (s : State) (rest : List Input), s.inputs = .rst true :: rest →
    ∃ t, step s = .next t ∧ AtResetValues t ∧ t.held = none ∧ t.rst = true ∧ t.reads = s.reads ∧ t.inputs = rest

/-- R240: while `rst` = 1 every bus transaction completes with no effect, and reads return 0 (assumption 21). -/
def Obligations.BusDuringResetHasNoEffect : Prop :=
  ∀ (s : State) (write : Bool) (addr : BitVec 6) (wdata : Word), s.rst = true →
    exec (decodeRequest write addr wdata) s = .next (if write then s else { s with reads := s.reads ++ [0] })

/-! ## The register window -/

/-- R23: a STATUS read returns BUSY, TX_EN, LUT_VALID, ERR in bits 0 to 3, ERR_CODE in bits 7..4, 0 above. -/
def Obligations.StatusReadReturnsItsFields : Prop :=
  ∀ s : State, s.rst = false →
    ∃ v : Word, exec .busRStatus s = .next { s with reads := s.reads ++ [v] } ∧
      v.getLsbD 0 = s.pending.isSome ∧ v.getLsbD 1 = s.txEn ∧ v.getLsbD 2 = s.lutValid ∧ v.getLsbD 3 = s.err ∧
      v.extractLsb' 4 4 = s.errCode ∧ v.extractLsb' 8 24 = 0

/-- R53: a read of a reserved offset or of a write-only register returns 0, and a write to a reserved offset or to
a read-only register has no effect; neither records an error. -/
def Obligations.ReservedAndWrongDirectionAccesses : Prop :=
  ∀ s : State, s.rst = false →
    (exec .busRCmd s = .next { s with reads := s.reads ++ [0] } ∧
      exec .busRStgGamma s = .next { s with reads := s.reads ++ [0] } ∧
      exec .busRStgRatio s = .next { s with reads := s.reads ++ [0] } ∧
      exec .busRStgCfg s = .next { s with reads := s.reads ++ [0] }) ∧
    (∀ a, exec (.busReserved false a) s = .next { s with reads := s.reads ++ [0] }) ∧
    (∀ a, exec (.busReserved true a) s = .next s) ∧
    (∀ a d, a.toNat = 3 ∨ 7 ≤ a.toNat → decodeRequest true a d = .busReserved true a) ∧
    (∀ a d, 7 ≤ a.toNat ∧ a.toNat < 32 ∨ 57 ≤ a.toNat → decodeRequest false a d = .busReserved false a)

/-- R25: a write to COLOR sets r, g, b from bits 23..0 and ignores bits 31..24; a read returns them under eight
zeros. -/
def Obligations.ColorWriteAndRead : Prop :=
  ∀ (s : State) (d : Word), s.rst = false →
    exec (.busWColor d) s
      = .next { s with color := { r := d.extractLsb' 16 8, g := d.extractLsb' 8 8, b := d.extractLsb' 0 8 } } ∧
    (∃ v, exec .busRColor s = .next { s with reads := s.reads ++ [v] } ∧ v.extractLsb' 24 8 = 0 ∧
      v.extractLsb' 16 8 = s.color.r ∧ v.extractLsb' 8 8 = s.color.g ∧ v.extractLsb' 0 8 = s.color.b) ∧
    ∀ t, exec (.busWColor d) s = .next t → exec .busRColor t = .next { t with reads := t.reads ++ [d &&& 0x00FFFFFF] }

/-- R26, R30: a RESULT read returns RESULT; an FBDATA[n] read returns `{8'h00, G, R, B}` of slot n, and
0 where n is no slot (R53; assumption 11). -/
def Obligations.ResultAndSlotReads : Prop :=
  ∀ s : State, s.rst = false →
    exec .busRResult s = .next { s with reads := s.reads ++ [s.result] } ∧
    (∀ n : BitVec 5, (h : n.toNat < 25) →
      ∃ v, exec (.busRFbdata n) s = .next { s with reads := s.reads ++ [v] } ∧ v.extractLsb' 24 8 = 0 ∧
        v.extractLsb' 16 8 = s.fb[n.toNat].g ∧ v.extractLsb' 8 8 = s.fb[n.toNat].r ∧
        v.extractLsb' 0 8 = s.fb[n.toNat].b) ∧
    ∀ n : BitVec 5, 25 ≤ n.toNat → exec (.busRFbdata n) s = .next { s with reads := s.reads ++ [0] }

/-- R27: a staging write stores any value, STG_CFG its bits 10..0, and changes nothing else. -/
def Obligations.StagingWritesStoreAnyValue : Prop :=
  ∀ (s : State) (d : Word), s.rst = false →
    exec (.busWStgGamma d) s = .next { s with stgGamma := d } ∧
    exec (.busWStgRatio d) s = .next { s with stgRatio := d } ∧
    exec (.busWStgCfg d) s = .next { s with stgCfg := BitVec.ofNat 11 (d.toNat % 2 ^ 11) }

/-- R217: writing STATUS with bit 3 = 1 clears ERR and ERR_CODE; with bit 3 = 0 it changes nothing. -/
def Obligations.StatusWriteClearsTheErrorRecord : Prop :=
  ∀ (s : State) (d : Word), s.rst = false →
    (d.toNat / 8 % 2 = 1 → exec (.busWStatus d) s = .next { s with err := false, errCode := 0 }) ∧
    (d.toNat / 8 % 2 = 0 → exec (.busWStatus d) s = .next s)

/-- R57, R73: a CMD write with no command in progress is accepted and latches its operands; while one is in progress
it is held and changes nothing else. -/
def Obligations.CmdWriteIsAcceptedOrHeld : Prop :=
  ∀ (s : State) (d : Word), s.rst = false →
    (s.pending = none → exec (.busWCmd d) s =
      .next { s with pending := some { word := d, color := s.color, stgGamma := s.stgGamma, stgRatio := s.stgRatio,
                                       stgCfg := s.stgCfg } }) ∧
    (s.pending ≠ none → exec (.busWCmd d) s = .next { s with held := some d })

/-- R57, R73: a held CMD write is accepted once BUSY has fallen, before any later transaction starts (R60), and latches its
operands then. That the engine makes this move when it is scheduled, when nothing is, or when the host's transaction
waits, is the model's choice (assumptions 1 and 23). -/
def Obligations.HeldCmdWriteIsAcceptedAfterBusyFalls : Prop :=
  ∀ (s : State) (d : Word), s.rst = false → s.held = some d → s.pending = none →
    let accepted : State := { s with held := none,
                                     pending := some { word := d, color := s.color, stgGamma := s.stgGamma,
                                                       stgRatio := s.stgRatio, stgCfg := s.stgCfg } }
    ((s.inputs = [] ∨ ∃ r rest, s.inputs = .bus r :: rest) → step s = .next accepted) ∧
    ∀ rest, s.inputs = .engine :: rest → step s = .next { accepted with inputs := rest }

/-- R56: a read has no side effect on any register: the host gets one word and nothing else changes. -/
def Obligations.ReadsHaveNoSideEffect : Prop :=
  ∀ (s : State) (addr : BitVec 6) (d : Word),
    ∃ v, exec (decodeRequest false addr d) s = .next { s with reads := s.reads ++ [v] }

/-- R57: no bus access changes FB, CFG, the LUT, LUT_VALID, TX_EN, RESULT, the trace or the transmitter: those change
only when a command completes, on reset, or (trace and transmitter) by the transmitter itself. -/
def Obligations.BusAccessesLeaveCommandEffectsAlone : Prop :=
  ∀ (s t : State) (write : Bool) (addr : BitVec 6) (d : Word), exec (decodeRequest write addr d) s = .next t →
    t.fb = s.fb ∧ t.cfg = s.cfg ∧ t.lut = s.lut ∧ t.lutValid = s.lutValid ∧ t.txEn = s.txEn ∧ t.result = s.result ∧
    t.trace = s.trace ∧ t.txPhase = s.txPhase ∧ t.txSlot = s.txSlot ∧ t.txBit = s.txBit ∧ t.dout = s.dout

/-- R58, R73: a write to COLOR or to a staging register during a command does not affect that command: completing it
and then writing, or writing and then completing it, comes to the same. -/
def Obligations.RegisterWritesDoNotAffectTheCommandInProgress : Prop :=
  ∀ (s t : State) (p : Pending) (c : Rgb) (g r : Word) (k : BitVec 11), s.pending = some p →
    exec (decodeCommand p.word) s = .next t →
    exec (decodeCommand p.word) { s with color := c, stgGamma := g, stgRatio := r, stgCfg := k }
      = .next { t with color := c, stgGamma := g, stgRatio := r, stgCfg := k }

/-! ## Control and errors -/

/-- R200: NOP changes nothing but its own BUSY, and every word 0x00xxxxxx is a NOP. -/
def Obligations.NopOnlyCompletes : Prop :=
  ∀ s : State, exec .nop s = .next { s with pending := none } ∧
    ∀ w : Word, w.toNat < 0x01000000 → exec (decodeCommand w) s = .next { s with pending := none }

/-- R211, R212, R101, R102, R176: a command that errs records its code unless an error is recorded already, completes,
and changes nothing else. A reserved opcode always errs. With no command in progress CONFIGURE reads the registers
(assumption 9). -/
def Obligations.ErringCommandOnlyRecordsTheFirstError : Prop :=
  ∀ (s : State) (i : Instr) (code : BitVec 4),
    ((∃ opc, i = .reservedOpc opc) ∧ code = 1 ∨
      i = .configure ∧ (isFinitePos (operands s).stgGamma = false ∨ isFinitePos (operands s).stgRatio = false) ∧ code = 2 ∨
      (∃ mode, i = .preset mode ∧ 4 < mode.toNat) ∧ code = 3 ∨
      i = .flush ∧ s.txEn = false ∧ code = 4) →
    exec i s = .next { s with pending := none, err := true, errCode := if s.err then s.errCode else code }

/-- R12: which words `isFinitePos` accepts: +0, the negative words, +∞ and NaN fail; the rest pass. -/
def Obligations.FinitePositiveWords : Prop :=
  ∀ w : Word, isFinitePos w = true ↔ 0 < w.toNat ∧ w.toNat < 0x7F800000

/-! ## Colour correction -/

/-- R100, R101, R114: CONFIGURE with legal floats installs the latched staging words as CFG, and brings the LUT in step;
with an illegal one it records error 2, if no error is recorded yet, and changes nothing else. -/
def Obligations.ConfigureInstallsTheStagedConfiguration : Prop :=
  ∀ (s : State) (p : Pending), s.pending = some p →
    (isFinitePos p.stgGamma = false ∨ isFinitePos p.stgRatio = false → exec .configure s =
      .next { s with pending := none, err := true, errCode := if s.err then s.errCode else 2 }) ∧
    (isFinitePos p.stgGamma = true → isFinitePos p.stgRatio = true → exec .configure s =
      .next { s with
        pending := none
        cfg := { gamma := p.stgGamma, noiseThr := BitVec.ofNat 8 (p.stgCfg.toNat % 256), ratio := p.stgRatio,
                 enGamma := p.stgCfg.toNat / 256 % 2 == 1, enNoise := p.stgCfg.toNat / 512 % 2 == 1,
                 enPur := p.stgCfg.toNat / 1024 % 2 == 1 }
        lut := if p.stgCfg.toNat / 256 % 2 = 1 then gammaTable p.stgGamma else s.lut
        lutValid := if p.stgCfg.toNat / 256 % 2 = 1 then true
                    else if p.stgGamma = s.cfg.gamma then s.lutValid else false })

/-- R102, R103, R114: PRESET 0 to 4 loads its row of the table, and brings the LUT in step; mode 0 has gamma correction
off and 1.0, modes 1 to 4 have it on. A mode above 4 records error 3, if no error is recorded yet, and changes nothing
else. -/
def Obligations.PresetLoadsItsRow : Prop :=
  ∀ s : State,
    exec (.preset 0) s = .next { s with
      pending := none
      cfg := { gamma := 0x3F800000, noiseThr := 0, ratio := 0x3F800000, enGamma := false, enNoise := false, enPur := false }
      lutValid := if s.cfg.gamma = 0x3F800000 then s.lutValid else false } ∧
    (∀ mode : Byte, 4 < mode.toNat → exec (.preset mode) s =
      .next { s with pending := none, err := true, errCode := if s.err then s.errCode else 3 }) ∧
    ∀ mode : Byte, 1 ≤ mode.toNat → mode.toNat ≤ 4 → ∃ c : CorrConfig,
      exec (.preset mode) s = .next { s with pending := none, cfg := c, lut := gammaTable c.gamma, lutValid := true } ∧
      c.enGamma = true ∧ c.enNoise = true ∧ (c.enPur = true ↔ mode ≠ 1) ∧
      (mode = 1 → c.gamma = 0x400CCCCD ∧ c.noiseThr = 10 ∧ c.ratio = 0x40C00000) ∧
      (mode = 2 → c.gamma = 0x400CCCCD ∧ c.noiseThr = 15 ∧ c.ratio = 0x41000000) ∧
      (mode = 3 → c.gamma = 0x40200000 ∧ c.noiseThr = 25 ∧ c.ratio = 0x41200000) ∧
      (mode = 4 → c.gamma = 0x40333333 ∧ c.noiseThr = 40 ∧ c.ratio = 0x41700000)

/-- R104, R116, R117: CORRECT writes the corrected colour, in the COLOR layout, and the lazy build leaves a valid LUT
when gamma correction is on. The premise on the LUT is `Inv.lutFresh`. -/
def Obligations.CorrectWritesTheCorrectedColor : Prop :=
  ∀ (s : State) (p : Pending), s.pending = some p → (s.lutValid = true → s.lut = gammaTable s.cfg.gamma) →
    ∃ v : Word,
      exec .correct s = .next { s with
        pending := none
        result := v
        lut := if s.cfg.enGamma then gammaTable s.cfg.gamma else s.lut
        lutValid := s.cfg.enGamma || s.lutValid } ∧
      v.extractLsb' 24 8 = 0 ∧ v.extractLsb' 16 8 = (pureCorrect s.params s.cfg p.color).r ∧
      v.extractLsb' 8 8 = (pureCorrect s.params s.cfg p.color).g ∧
      v.extractLsb' 0 8 = (pureCorrect s.params s.cfg p.color).b

/-- R106: the noise stage zeroes a channel exactly when it is on and `0 < value < threshold`. -/
def Obligations.NoiseStageZeroesChannelsBelowThreshold : Prop :=
  ∀ (cfg : CorrConfig) (c : Rgb),
    let kept (v : Byte) : Byte := if cfg.enNoise = true ∧ v ≠ 0 ∧ v < cfg.noiseThr then 0 else v
    noiseStage cfg c = { r := kept c.r, g := kept c.g, b := kept c.b }

/-- R108: the ratio test is the exact real comparison `M / m > bin32(RATIO)`, with the binary32 layout of R12
(assumption 15). -/
def Obligations.RatioTestIsExact : Prop :=
  ∀ (ratio : Word) (M m : Nat), 0 < m → (ratioExceeds ratio M m = true ↔ (bin32 ratio : ℚ) < (M : ℚ) / m)

/-- R107, R108, R109, R118: the purification stage, in the form R118 gives it: every channel with `4·c < M` is zeroed,
whichever channel is the dominant one. It covers both values of `P_MAX_INCLUDES_BLUE` (assumption 3). The binary32
layout: assumption 15. -/
def Obligations.PurificationZeroesEverySmallChannel : Prop :=
  ∀ (p : Config.Params) (cfg : CorrConfig) (c : Rgb),
    let M := if p.maxIncludesBlue then max (max c.r.toNat c.g.toNat) c.b.toNat else max c.r.toNat c.g.toNat
    let m := min (min c.r.toNat c.g.toNat) c.b.toNat
    let zeroed (v : Byte) : Byte := if 4 * v.toNat < M then 0 else v
    let c' : Rgb := if M > 100 ∧ m > 0 ∧ (M : ℚ) / m > bin32 cfg.ratio
      then { r := zeroed c.r, g := zeroed c.g, b := zeroed c.b } else c
    purifyStage p cfg c =
      if cfg.enPur = false then c
      else if c'.r.toNat > 240 ∧ c'.g.toNat > 240 ∧ c'.b.toNat > 240 then { r := 255, g := 255, b := 255 } else c'

/-- R119: where white snap applies, zeroing changes nothing; and snapping after zeroing is zeroing after snapping. -/
def Obligations.WhiteSnapAndZeroingCommute : Prop :=
  ∀ (p : Config.Params) (c : Rgb),
    (240 < c.r.toNat ∧ 240 < c.g.toNat ∧ 240 < c.b.toNat → zeroOthers (maxChannel p c) c = c) ∧
    whiteSnap (zeroOthers (maxChannel p c) c) = zeroOthers (maxChannel p (whiteSnap c)) (whiteSnap c)

/-- R121: black stays black under every configuration. -/
def Obligations.BlackStaysBlack : Prop :=
  ∀ (p : Config.Params) (cfg : CorrConfig), pureCorrect p cfg { r := 0, g := 0, b := 0 } = { r := 0, g := 0, b := 0 }

/-- R110: the table entry is the nearest integer to `255·(i/255)^γ`, for every finite positive binary32 exponent. (No
tie arises, R111, so `round`'s rule for ties does not matter. The binary32 layout: assumption 15.) -/
def Obligations.GammaTableIsTheRoundedRealPower : Prop :=
  ∀ (w : Word) (i : Nat) (h : i < 256), isFinitePos w = true →
    ((gammaTable w)[i].toNat : ℤ) = round (255 * ((i : ℝ) / 255) ^ ((bin32 w : ℚ) : ℝ))

/-- R111: the table begins with 0, ends with 255, never falls, and is the identity for γ = 1.0. -/
def Obligations.GammaTableIsMonotoneWithFixedEnds : Prop :=
  (∀ w : Word, isFinitePos w = true →
    (gammaTable w)[0] = 0 ∧ (gammaTable w)[255] = 255 ∧
    ∀ (i j : Nat) (hj : j < 256), (hij : i ≤ j) → (gammaTable w)[i] ≤ (gammaTable w)[j]) ∧
  ∀ (i : Nat) (h : i < 256), (gammaTable 0x3F800000)[i].toNat = i

/-- R33: two states that differ only in the contents of a stale LUT cannot be told apart by any sequence of moves: the
host reads the same words and the trace is the same. -/
def Obligations.StaleLutContentsAreUnobservable : Prop :=
  ∀ (k : Nat) (s t : State), SameButStaleLut s t →
    ∃ s' t', Host.Core.run Sys2Proof.core k s = .next s' ∧ Host.Core.run Sys2Proof.core k t = .next t' ∧
      s'.reads = t'.reads ∧ s'.trace = t'.trace

/-! ## Address decoder and frame buffer -/

/-- R141, R143, R144: the full map of `index`, a bijection from the valid coordinates onto 0..24 with the given
inverse. -/
def Obligations.IndexIsTheReversedSerpentine : Prop :=
  (∀ x y : Byte, isValid x y = true → index x y < 25 ∧ indexInverse (index x y) = (x.toNat, y.toNat) ∧
    index x y = ([[24, 23, 22, 21, 20], [15, 16, 17, 18, 19], [14, 13, 12, 11, 10], [5, 6, 7, 8, 9],
      [4, 3, 2, 1, 0]].getD y.toNat []).getD x.toNat 0) ∧
  ∀ n, n < 25 → ∃ x y : Byte, isValid x y = true ∧ index x y = n ∧ indexInverse n = (x.toNat, y.toNat)

/-- R140, R142: DECODE gives VALID and the slot for x < 5 and y < 5, else 0x0000001F; nothing else changes. -/
def Obligations.DecodeCommandGivesTheSlot : Prop :=
  ∀ (s : State) (x y : Byte), ∃ v : Word, exec (.decode x y) s = .next { s with pending := none, result := v } ∧
    (x.toNat < 5 ∧ y.toNat < 5 → v.getLsbD 31 = true ∧ v.extractLsb' 5 26 = 0 ∧
      (v.extractLsb' 0 5).toNat =
        if y.toNat % 2 = 0 then 24 - (5 * y.toNat + x.toNat) else 24 - (5 * y.toNat + 4 - x.toNat)) ∧
    (5 ≤ x.toNat ∨ 5 ≤ y.toNat → v = 0x0000001F)

/-- R145, R116: WRPIX at valid coordinates puts the corrected colour, in wire order, into `index(x, y)` and no other
slot; the lazy build is the only other effect. With invalid coordinates it is a silent no-op: no correction, no lazy
build, no error (R213). The premise on the LUT is `Inv.lutFresh`. -/
def Obligations.WrpixWritesTheCorrectedPixel : Prop :=
  ∀ (s : State) (p : Pending) (x y : Byte), s.pending = some p → (s.lutValid = true → s.lut = gammaTable s.cfg.gamma) →
    (x.toNat < 5 ∧ y.toNat < 5 → ∃ fb : FrameBuffer,
      exec (.wrpix x y) s = .next { s with
        pending := none
        fb := fb
        lut := if s.cfg.enGamma then gammaTable s.cfg.gamma else s.lut
        lutValid := s.cfg.enGamma || s.lutValid } ∧
      ∀ (n : Nat) (h : n < 25), fb[n] =
        if n = index x y then
          { g := (pureCorrect s.params s.cfg p.color).g, r := (pureCorrect s.params s.cfg p.color).r,
            b := (pureCorrect s.params s.cfg p.color).b }
        else s.fb[n]) ∧
    (5 ≤ x.toNat ∨ 5 ≤ y.toNat → exec (.wrpix x y) s = .next { s with pending := none })

/-- R146: WRPIXRAW at valid coordinates puts the colour itself, in wire order, into `index(x, y)`; nothing else
changes. With invalid coordinates nothing changes at all (R213). -/
def Obligations.WrpixrawWritesTheRawPixel : Prop :=
  ∀ (s : State) (p : Pending) (x y : Byte), s.pending = some p →
    (x.toNat < 5 ∧ y.toNat < 5 → ∃ fb : FrameBuffer, exec (.wrpixraw x y) s = .next { s with pending := none, fb := fb } ∧
      ∀ (n : Nat) (h : n < 25), fb[n] =
        if n = index x y then { g := p.color.g, r := p.color.r, b := p.color.b } else s.fb[n]) ∧
    (5 ≤ x.toNat ∨ 5 ≤ y.toNat → exec (.wrpixraw x y) s = .next { s with pending := none })

/-- R147: WRSLOTRAW with SLOT < 25 puts the colour, in wire order, into that slot; nothing else changes. With SLOT ≥ 25
nothing changes at all (R213). -/
def Obligations.WrslotrawWritesTheSlot : Prop :=
  ∀ (s : State) (p : Pending) (slot : Byte), s.pending = some p →
    (slot.toNat < 25 → ∃ fb : FrameBuffer, exec (.wrslotraw slot) s = .next { s with pending := none, fb := fb } ∧
      ∀ (n : Nat) (h : n < 25), fb[n] =
        if n = slot.toNat then { g := p.color.g, r := p.color.r, b := p.color.b } else s.fb[n]) ∧
    (25 ≤ slot.toNat → exec (.wrslotraw slot) s = .next { s with pending := none })

/-- R149: the raw round trip. WRPIXRAW, then a read of FBDATA[index(x, y)], returns `{8'h00, g, r, b}`, the colour
written. -/
def Obligations.RawPixelReadsBackUncorrected : Prop :=
  ∀ (s t : State) (p : Pending) (x y : Byte), s.rst = false → s.pending = some p → isValid x y = true →
    exec (.wrpixraw x y) s = .next t →
    exec (.busRFbdata (BitVec.ofNat 5 (index x y))) t
      = .next { t with reads := s.reads ++ [(0#8) ++ p.color.g ++ p.color.r ++ p.color.b] }

/-- R23, R24, R26, R29, R32: which instructions write which state. CFG: CONFIGURE and PRESET. RESULT: CORRECT and
DECODE. The FB: WRPIX, WRPIXRAW, WRSLOTRAW, INIT. TX_EN: INIT. The trace: INIT and FLUSH. LUT_VALID: CONFIGURE, PRESET
and the commands that build lazily. The error record: the four erring commands and the STATUS write. COLOR and the
staging registers: their own bus writes. -/
def Obligations.OnlyTheNamedInstructionsWrite : Prop :=
  ∀ (i : Instr) (s t : State), exec i s = .next t →
    (t.cfg ≠ s.cfg → i = .configure ∨ ∃ m, i = .preset m) ∧
    (t.result ≠ s.result → i = .correct ∨ ∃ x y, i = .decode x y) ∧
    (t.fb ≠ s.fb → i = .init ∨ (∃ x y, i = .wrpix x y ∨ i = .wrpixraw x y) ∨ ∃ n, i = .wrslotraw n) ∧
    (t.txEn ≠ s.txEn → i = .init) ∧
    (t.trace ≠ s.trace → i = .init ∨ i = .flush) ∧
    (t.lutValid ≠ s.lutValid ∨ t.lut ≠ s.lut →
      i = .configure ∨ (∃ m, i = .preset m) ∨ i = .correct ∨ ∃ x y, i = .wrpix x y) ∧
    (t.err ≠ s.err ∨ t.errCode ≠ s.errCode →
      i = .configure ∨ (∃ m, i = .preset m) ∨ i = .flush ∨ (∃ o, i = .reservedOpc o) ∨ ∃ d, i = .busWStatus d) ∧
    (t.color ≠ s.color → ∃ d, i = .busWColor d) ∧
    (t.stgGamma ≠ s.stgGamma → ∃ d, i = .busWStgGamma d) ∧
    (t.stgRatio ≠ s.stgRatio → ∃ d, i = .busWStgRatio d) ∧
    (t.stgCfg ≠ s.stgCfg → ∃ d, i = .busWStgCfg d)

/-! ## Transmitter -/

/-- R180: INIT sets TX_EN, clears the FB, sends one all-zero frame and latches; CFG, the LUT, LUT_VALID, COLOR, RESULT,
the staging registers and the error record are not changed. Once the line is in its latch period the frame has been
sent, and only the Latch is still to come (assumptions 8 and 14). -/
def Obligations.InitClearsTheFrameAndSendsZeros : Prop :=
  ∀ s : State, ∃ t, exec .init s = .next t ∧ t.txEn = true ∧ (∀ n, fbWord t.fb n = 0) ∧
    t.trace = s.trace ++ (if s.txPhase = .latch then [.latch] else [.frame (List.replicate 600 false), .latch]) ∧
    t.txPhase = .idle ∧ t.dout = false ∧
    t = { s with pending := none, txEn := true, fb := t.fb, trace := t.trace, txPhase := .idle, txSlot := t.txSlot,
                 txBit := t.txBit, dout := false }

/-- R175: FLUSH with TX_EN = 1 sends the FB as one frame and latches; it changes no register and not the FB. Once the
line is in its latch period the frame has been sent, and only the Latch is still to come (assumption 14). -/
def Obligations.FlushSendsTheFrameBuffer : Prop :=
  ∀ s : State, s.txEn = true → ∃ t, exec .flush s = .next t ∧
    t.trace = s.trace ++ (if s.txPhase = .latch then [.latch] else [.frame (frameBits s.fb), .latch]) ∧
    t = { s with pending := none, trace := t.trace, txPhase := .idle, txSlot := t.txSlot, txBit := t.txBit,
                 dout := false }

/-- R172: a frame has 600 bits, and bit k is `FBDATA[k div 24][23 - (k mod 24)]` (most
significant bit first: assumption 16). -/
def Obligations.FrameBitsFollowFbdata : Prop :=
  ∀ fb : FrameBuffer, (frameBits fb).length = 600 ∧
    ∀ k, k < 600 → (frameBits fb)[k]? = some ((fbWord fb (k / 24)).getLsbD (23 - k % 24))

/-- R20: a line event of the transmitter and then the completion of the command is the completion of the command: the
TX's work may be folded into the command, as rule R20 allows. It holds of every command. -/
def Obligations.LineEventsFoldIntoTheCommand : Prop :=
  ∀ (s : State) (p : Pending), s.pending = some p →
    exec (decodeCommand p.word) (txAdvance s) = exec (decodeCommand p.word) s

/-- R173, R174, R175: the line events of a FLUSH send bits 0..599 of the frame in order and back to back: bit k is
high, then low, with `tx_slot` = k div 24 and `tx_bit` = 23 - k mod 24, high for T1H or T0H as the bit of the frame is
1 or 0 and low for the rest of T_BIT; after the last, the Frame is in the trace and the latch period of T_LATCH begins, the line low (R178). The split into
line events is the model's (assumption 14). -/
def Obligations.FlushSendsEveryBitBackToBack : Prop :=
  ∀ (s : State) (p : Pending), s.pending = some p → decodeCommand p.word = .flush → s.txEn = true →
    s.txPhase = .idle →
    (∀ k, k < 600 →
      let high := txAdvance^[2 * k + 1] s
      let low := txAdvance^[2 * k + 2] s
      let tH := if (frameBits s.fb)[k]? = some true then s.params.t1h else s.params.t0h
      high.txPhase = .data ∧ high.dout = true ∧ high.txSlot.val = k / 24 ∧ high.txBit.val = 23 - k % 24 ∧
      low = { high with dout := false } ∧
      lineHold high = some tH ∧ lineHold low = some (s.params.tBit - tH)) ∧
    txAdvance^[1201] s = { s with txPhase := .latch, txSlot := 24, txBit := 0, dout := false,
                                  trace := s.trace ++ [.frame (frameBits s.fb)] } ∧
    lineHold (txAdvance^[1201] s) = some s.params.tLatch

/-- R173, R177: every bit is one period of length T_BIT, and a frame with its latch takes 600·T_BIT + T_LATCH. -/
def Obligations.FrameWaveformDuration : Prop :=
  ∀ (p : Config.Params) (fb : FrameBuffer), p.wf →
    (∀ v, ((sendBit p v).map Prod.snd).sum = p.tBit) ∧
    ((frameWaveform p (frameBits fb)).map Prod.snd).sum = 600 * p.tBit + p.tLatch

/-- R178, R244: after a FLUSH the LEDs show the FB as it stood when it was accepted, and after an INIT they are off; no
line event changes what they show, not even the end of a frame that has not latched; no other instruction does; and a
step does so only by a Latch or by a reset, which forgets the trace. The LED chain is the spec's general knowledge
(assumption 17), and the reset's effect on the record of the trace is assumption 25. -/
def Obligations.LedsChangeOnlyAtALatch : Prop :=
  (∀ s t : State, s.txEn = true → s.txPhase = .idle → exec .flush s = .next t → shown t.trace = some (frameBits s.fb)) ∧
  (∀ s t : State, s.txPhase = .idle → exec .init s = .next t → shown t.trace = some (List.replicate 600 false)) ∧
  (∀ s : State, shown (txAdvance s).trace = shown s.trace) ∧
  (∀ (i : Instr) (s t : State), i ≠ .flush → i ≠ .init → exec i s = .next t → shown t.trace = shown s.trace) ∧
  ∀ s t : State, step s = .next t → shown t.trace ≠ shown s.trace →
    t.trace.getLast? = some .latch ∨ s.inputs.head? = some (.rst true)

/-! ## Invariants -/

/-- The reset state meets the invariant. -/
def Obligations.ResetMeetsTheInvariant : Prop := Inv State.reset

/-- R24, R28, R31, R210, R240: every step keeps the invariant: CFG stays legal, a valid LUT is the table of CFG.GAMMA,
ERR_CODE stays one of the known codes and 0 exactly while ERR is clear, the TX is idle unless a transmitting command is
in progress, the line is low unless a bit is being sent, and `rst` = 1 holds every element at its reset value. -/
def Obligations.StepKeepsTheInvariant : Prop := ∀ s t : State, Inv s → step s = .next t → Inv t

/-- R59: while a command is in progress, a read returns the value from before it: no line event changes what any read
returns. -/
def Obligations.LineEventsAreInvisibleToReads : Prop :=
  ∀ (s t u : State) (addr : BitVec 6) (d : Word), exec (decodeRequest false addr d) s = .next t →
    exec (decodeRequest false addr d) (txAdvance s) = .next u → u.reads = t.reads

/-! ## Parameters, layouts and ports -/

/-- R12: `bin32` of every finite word, negative ones included, is the IEEE 754 binary32 value, by which R12 defines it;
the layout itself is the spec's general knowledge (assumption 15). -/
def Obligations.Bin32IsTheBinary32Value : Prop :=
  ∀ w : Word,
    let e : Nat := w.toNat / 2 ^ 23 % 256
    let f : ℚ := (w.toNat % 2 ^ 23 : Nat)
    let sign : ℚ := if 2 ^ 31 ≤ w.toNat then -1 else 1
    (isFinite w = true ↔ e ≠ 255) ∧
    (isFinite w = true → e = 0 → bin32 w = sign * (f / 2 ^ 23) * 2 ^ (-126 : ℤ)) ∧
    (isFinite w = true → e ≠ 0 → bin32 w = sign * (1 + f / 2 ^ 23) * 2 ^ ((e : ℤ) - 127))

/-- R31, R50, R170: `dout_oe` is what a STATUS read returns as TX_EN, in every state; and a step changes it only where an
INIT completes, or at a reset (assumption 7). -/
def Obligations.OutputEnableIsTxEn : Prop :=
  (∀ s : State, s.rst = false →
    ∃ v : Word, exec .busRStatus s = .next { s with reads := s.reads ++ [v] } ∧ v.getLsbD 1 = doutOe s) ∧
  ∀ s t : State, step s = .next t → doutOe t ≠ doutOe s →
    (∃ p, s.pending = some p ∧ decodeCommand p.word = .init ∧ t.pending = none ∧ doutOe t = true) ∨
    s.inputs.head? = some (.rst true)

/-- R113: the gamma stage looks each channel up in the table with EN_GAMMA = 1, and keeps the colour with EN_GAMMA = 0. -/
def Obligations.GammaStageMapsEachChannelThroughTheTable : Prop :=
  ∀ (cfg : CorrConfig) (lut : Lut) (c : Rgb),
    (cfg.enGamma = true → (gammaStage cfg lut c).r = lut[c.r.toNat] ∧ (gammaStage cfg lut c).g = lut[c.g.toNat] ∧
      (gammaStage cfg lut c).b = lut[c.b.toNat]) ∧
    (cfg.enGamma = false → gammaStage cfg lut c = c)

/-- R240: the release of `rst` changes the level and nothing else, and while `rst` = 1 neither the command engine nor the
transmitter moves. The moves are the model's choice (assumptions 1 and 13). -/
def Obligations.RstReleaseAndHoldChangeNothingElse : Prop :=
  ∀ (s : State) (rest : List Input),
    (s.inputs = .rst false :: rest → step s = .next { s with rst := false, inputs := rest }) ∧
    (s.rst = true → s.inputs = .engine :: rest ∨ s.inputs = .tx :: rest → step s = .next { s with inputs := rest }) ∧
    (s.rst = true → s.inputs = [] → step s = .next s)

/-- R173, R174, R178, R180: the line events of an INIT. The line is low for T_LATCH; then 600 zero bits go out back to
back, each high for T0H and low for the rest of T_BIT; then the Frame is in the trace and the line is low for T_LATCH.
The split into line events is the model's (assumptions 8 and 14). -/
def Obligations.InitSendsLeadFrameAndLatch : Prop :=
  ∀ (s : State) (p : Pending), s.pending = some p → decodeCommand p.word = .init → s.txPhase = .idle →
    txAdvance s = { s with txPhase := .lead, dout := false } ∧ lineHold (txAdvance s) = some s.params.tLatch ∧
    (∀ k, k < 600 →
      let high := txAdvance^[2 * k + 2] s
      let low := txAdvance^[2 * k + 3] s
      high.txPhase = .data ∧ high.dout = true ∧ high.txSlot.val = k / 24 ∧ high.txBit.val = 23 - k % 24 ∧
      low = { high with dout := false } ∧
      lineHold high = some s.params.t0h ∧ lineHold low = some (s.params.tBit - s.params.t0h)) ∧
    txAdvance^[1202] s = { s with txPhase := .latch, txSlot := 24, txBit := 0, dout := false,
                                  trace := s.trace ++ [.frame (List.replicate 600 false)] } ∧
    lineHold (txAdvance^[1202] s) = some s.params.tLatch

/-- R8, R177, R250: how long each command keeps BUSY = 1, for every choice of the parameters, `L_CMD` and `L_LUT` in
cycles of `F_CLK`. No bus access has such a time. -/
def Obligations.BusyLastsForTheTimesOfTheParameters : Prop :=
  ∀ (q : Config.Platform) (s : State), q.wf →
    let cycles (n : Nat) : ℚ := n * 10 ^ 9 / q.fClk
    let lazyBuild : Nat := if s.cfg.enGamma = true ∧ s.lutValid = false then q.lLut else 0
    let frame : ℚ := 600 * s.params.tBit + s.params.tLatch
    (∀ x y slot opc, busyNanoseconds q .nop s = some (cycles q.lCmd) ∧
      busyNanoseconds q (.decode x y) s = some (cycles q.lCmd) ∧
      busyNanoseconds q (.wrpixraw x y) s = some (cycles q.lCmd) ∧
      busyNanoseconds q (.wrslotraw slot) s = some (cycles q.lCmd) ∧
      busyNanoseconds q (.reservedOpc opc) s = some (cycles q.lCmd) ∧
      busyNanoseconds q (.wrpix x y) s = some (cycles (q.lCmd + if isValid x y = true then lazyBuild else 0))) ∧
    busyNanoseconds q .correct s = some (cycles (q.lCmd + lazyBuild)) ∧
    (∀ t, exec .configure s = .next t →
      isFinitePos (operands s).stgGamma = true → isFinitePos (operands s).stgRatio = true →
      busyNanoseconds q .configure s = some (cycles (q.lCmd + if t.cfg.enGamma = true then q.lLut else 0))) ∧
    (isFinitePos (operands s).stgGamma = false ∨ isFinitePos (operands s).stgRatio = false →
      busyNanoseconds q .configure s = some (cycles q.lCmd)) ∧
    (∀ mode t, exec (.preset mode) s = .next t → mode.toNat ≤ 4 →
      busyNanoseconds q (.preset mode) s = some (cycles (q.lCmd + if t.cfg.enGamma = true then q.lLut else 0))) ∧
    (∀ mode : Byte, 4 < mode.toNat → busyNanoseconds q (.preset mode) s = some (cycles q.lCmd)) ∧
    (s.txEn = true → busyNanoseconds q .flush s = some (cycles q.lCmd + frame)) ∧
    (s.txEn = false → busyNanoseconds q .flush s = some (cycles q.lCmd)) ∧
    busyNanoseconds q .init s = some (cycles q.lCmd + s.params.tLatch + frame) ∧
    ∀ write addr d, busyNanoseconds q (decodeRequest write addr d) s = none
end

