-- ==== Sys2Proof/Laws/State.lean ====
section
/-! SUPPORT. One lemma per field per shared update of State, so that no proof unfolds a record update. -/

namespace Sys2Proof.Laws

open Sys2Proof.Machine

variable (s : State)


/-! ### complete -/

@[simp] theorem complete_params : (complete s).params = s.params := rfl
@[simp] theorem complete_rst : (complete s).rst = s.rst := rfl
@[simp] theorem complete_held : (complete s).held = s.held := rfl
@[simp] theorem complete_pending : (complete s).pending = none := rfl
@[simp] theorem complete_txEn : (complete s).txEn = s.txEn := rfl
@[simp] theorem complete_lutValid : (complete s).lutValid = s.lutValid := rfl
@[simp] theorem complete_err : (complete s).err = s.err := rfl
@[simp] theorem complete_errCode : (complete s).errCode = s.errCode := rfl
@[simp] theorem complete_color : (complete s).color = s.color := rfl
@[simp] theorem complete_result : (complete s).result = s.result := rfl
@[simp] theorem complete_stgGamma : (complete s).stgGamma = s.stgGamma := rfl
@[simp] theorem complete_stgRatio : (complete s).stgRatio = s.stgRatio := rfl
@[simp] theorem complete_stgCfg : (complete s).stgCfg = s.stgCfg := rfl
@[simp] theorem complete_cfg : (complete s).cfg = s.cfg := rfl
@[simp] theorem complete_lut : (complete s).lut = s.lut := rfl
@[simp] theorem complete_fb : (complete s).fb = s.fb := rfl
@[simp] theorem complete_txPhase : (complete s).txPhase = s.txPhase := rfl
@[simp] theorem complete_txSlot : (complete s).txSlot = s.txSlot := rfl
@[simp] theorem complete_txBit : (complete s).txBit = s.txBit := rfl
@[simp] theorem complete_dout : (complete s).dout = s.dout := rfl
@[simp] theorem complete_trace : (complete s).trace = s.trace := rfl
@[simp] theorem complete_reads : (complete s).reads = s.reads := rfl
@[simp] theorem complete_inputs : (complete s).inputs = s.inputs := rfl

/-! ### accept -/

@[simp] theorem accept_params (w : Word) : (accept w s).params = s.params := rfl
@[simp] theorem accept_rst (w : Word) : (accept w s).rst = s.rst := rfl
@[simp] theorem accept_held (w : Word) : (accept w s).held = s.held := rfl
@[simp] theorem accept_pending (w : Word) : (accept w s).pending = some (latchOperands w s) := rfl
@[simp] theorem accept_txEn (w : Word) : (accept w s).txEn = s.txEn := rfl
@[simp] theorem accept_lutValid (w : Word) : (accept w s).lutValid = s.lutValid := rfl
@[simp] theorem accept_err (w : Word) : (accept w s).err = s.err := rfl
@[simp] theorem accept_errCode (w : Word) : (accept w s).errCode = s.errCode := rfl
@[simp] theorem accept_color (w : Word) : (accept w s).color = s.color := rfl
@[simp] theorem accept_result (w : Word) : (accept w s).result = s.result := rfl
@[simp] theorem accept_stgGamma (w : Word) : (accept w s).stgGamma = s.stgGamma := rfl
@[simp] theorem accept_stgRatio (w : Word) : (accept w s).stgRatio = s.stgRatio := rfl
@[simp] theorem accept_stgCfg (w : Word) : (accept w s).stgCfg = s.stgCfg := rfl
@[simp] theorem accept_cfg (w : Word) : (accept w s).cfg = s.cfg := rfl
@[simp] theorem accept_lut (w : Word) : (accept w s).lut = s.lut := rfl
@[simp] theorem accept_fb (w : Word) : (accept w s).fb = s.fb := rfl
@[simp] theorem accept_txPhase (w : Word) : (accept w s).txPhase = s.txPhase := rfl
@[simp] theorem accept_txSlot (w : Word) : (accept w s).txSlot = s.txSlot := rfl
@[simp] theorem accept_txBit (w : Word) : (accept w s).txBit = s.txBit := rfl
@[simp] theorem accept_dout (w : Word) : (accept w s).dout = s.dout := rfl
@[simp] theorem accept_trace (w : Word) : (accept w s).trace = s.trace := rfl
@[simp] theorem accept_reads (w : Word) : (accept w s).reads = s.reads := rfl
@[simp] theorem accept_inputs (w : Word) : (accept w s).inputs = s.inputs := rfl

/-! ### writeSlot -/

@[simp] theorem writeSlot_params (n : Nat) (sl : Slot) : (writeSlot n sl s).params = s.params := rfl
@[simp] theorem writeSlot_rst (n : Nat) (sl : Slot) : (writeSlot n sl s).rst = s.rst := rfl
@[simp] theorem writeSlot_held (n : Nat) (sl : Slot) : (writeSlot n sl s).held = s.held := rfl
@[simp] theorem writeSlot_pending (n : Nat) (sl : Slot) : (writeSlot n sl s).pending = s.pending := rfl
@[simp] theorem writeSlot_txEn (n : Nat) (sl : Slot) : (writeSlot n sl s).txEn = s.txEn := rfl
@[simp] theorem writeSlot_lutValid (n : Nat) (sl : Slot) : (writeSlot n sl s).lutValid = s.lutValid := rfl
@[simp] theorem writeSlot_err (n : Nat) (sl : Slot) : (writeSlot n sl s).err = s.err := rfl
@[simp] theorem writeSlot_errCode (n : Nat) (sl : Slot) : (writeSlot n sl s).errCode = s.errCode := rfl
@[simp] theorem writeSlot_color (n : Nat) (sl : Slot) : (writeSlot n sl s).color = s.color := rfl
@[simp] theorem writeSlot_result (n : Nat) (sl : Slot) : (writeSlot n sl s).result = s.result := rfl
@[simp] theorem writeSlot_stgGamma (n : Nat) (sl : Slot) : (writeSlot n sl s).stgGamma = s.stgGamma := rfl
@[simp] theorem writeSlot_stgRatio (n : Nat) (sl : Slot) : (writeSlot n sl s).stgRatio = s.stgRatio := rfl
@[simp] theorem writeSlot_stgCfg (n : Nat) (sl : Slot) : (writeSlot n sl s).stgCfg = s.stgCfg := rfl
@[simp] theorem writeSlot_cfg (n : Nat) (sl : Slot) : (writeSlot n sl s).cfg = s.cfg := rfl
@[simp] theorem writeSlot_lut (n : Nat) (sl : Slot) : (writeSlot n sl s).lut = s.lut := rfl
@[simp] theorem writeSlot_fb (n : Nat) (sl : Slot) : (writeSlot n sl s).fb = s.fb.setIfInBounds n sl := rfl
@[simp] theorem writeSlot_txPhase (n : Nat) (sl : Slot) : (writeSlot n sl s).txPhase = s.txPhase := rfl
@[simp] theorem writeSlot_txSlot (n : Nat) (sl : Slot) : (writeSlot n sl s).txSlot = s.txSlot := rfl
@[simp] theorem writeSlot_txBit (n : Nat) (sl : Slot) : (writeSlot n sl s).txBit = s.txBit := rfl
@[simp] theorem writeSlot_dout (n : Nat) (sl : Slot) : (writeSlot n sl s).dout = s.dout := rfl
@[simp] theorem writeSlot_trace (n : Nat) (sl : Slot) : (writeSlot n sl s).trace = s.trace := rfl
@[simp] theorem writeSlot_reads (n : Nat) (sl : Slot) : (writeSlot n sl s).reads = s.reads := rfl
@[simp] theorem writeSlot_inputs (n : Nat) (sl : Slot) : (writeSlot n sl s).inputs = s.inputs := rfl

/-! ### buildLut -/

@[simp] theorem buildLut_params : (buildLut s).params = s.params := rfl
@[simp] theorem buildLut_rst : (buildLut s).rst = s.rst := rfl
@[simp] theorem buildLut_held : (buildLut s).held = s.held := rfl
@[simp] theorem buildLut_pending : (buildLut s).pending = s.pending := rfl
@[simp] theorem buildLut_txEn : (buildLut s).txEn = s.txEn := rfl
@[simp] theorem buildLut_lutValid : (buildLut s).lutValid = true := rfl
@[simp] theorem buildLut_err : (buildLut s).err = s.err := rfl
@[simp] theorem buildLut_errCode : (buildLut s).errCode = s.errCode := rfl
@[simp] theorem buildLut_color : (buildLut s).color = s.color := rfl
@[simp] theorem buildLut_result : (buildLut s).result = s.result := rfl
@[simp] theorem buildLut_stgGamma : (buildLut s).stgGamma = s.stgGamma := rfl
@[simp] theorem buildLut_stgRatio : (buildLut s).stgRatio = s.stgRatio := rfl
@[simp] theorem buildLut_stgCfg : (buildLut s).stgCfg = s.stgCfg := rfl
@[simp] theorem buildLut_cfg : (buildLut s).cfg = s.cfg := rfl
@[simp] theorem buildLut_lut : (buildLut s).lut = gammaTable s.cfg.gamma := rfl
@[simp] theorem buildLut_fb : (buildLut s).fb = s.fb := rfl
@[simp] theorem buildLut_txPhase : (buildLut s).txPhase = s.txPhase := rfl
@[simp] theorem buildLut_txSlot : (buildLut s).txSlot = s.txSlot := rfl
@[simp] theorem buildLut_txBit : (buildLut s).txBit = s.txBit := rfl
@[simp] theorem buildLut_dout : (buildLut s).dout = s.dout := rfl
@[simp] theorem buildLut_trace : (buildLut s).trace = s.trace := rfl
@[simp] theorem buildLut_reads : (buildLut s).reads = s.reads := rfl
@[simp] theorem buildLut_inputs : (buildLut s).inputs = s.inputs := rfl

/-! ### recordError -/

@[simp] theorem recordError_params (e : CmdError) : (recordError e s).params = s.params := by unfold recordError; split <;> rfl
@[simp] theorem recordError_rst (e : CmdError) : (recordError e s).rst = s.rst := by unfold recordError; split <;> rfl
@[simp] theorem recordError_held (e : CmdError) : (recordError e s).held = s.held := by unfold recordError; split <;> rfl
@[simp] theorem recordError_pending (e : CmdError) : (recordError e s).pending = s.pending := by unfold recordError; split <;> rfl
@[simp] theorem recordError_txEn (e : CmdError) : (recordError e s).txEn = s.txEn := by unfold recordError; split <;> rfl
@[simp] theorem recordError_lutValid (e : CmdError) : (recordError e s).lutValid = s.lutValid := by unfold recordError; split <;> rfl
@[simp] theorem recordError_err (e : CmdError) : (recordError e s).err = true := by unfold recordError; split <;> simp_all
@[simp] theorem recordError_errCode (e : CmdError) : (recordError e s).errCode = if s.err then s.errCode else e.code := by unfold recordError; split <;> rfl
@[simp] theorem recordError_color (e : CmdError) : (recordError e s).color = s.color := by unfold recordError; split <;> rfl
@[simp] theorem recordError_result (e : CmdError) : (recordError e s).result = s.result := by unfold recordError; split <;> rfl
@[simp] theorem recordError_stgGamma (e : CmdError) : (recordError e s).stgGamma = s.stgGamma := by unfold recordError; split <;> rfl
@[simp] theorem recordError_stgRatio (e : CmdError) : (recordError e s).stgRatio = s.stgRatio := by unfold recordError; split <;> rfl
@[simp] theorem recordError_stgCfg (e : CmdError) : (recordError e s).stgCfg = s.stgCfg := by unfold recordError; split <;> rfl
@[simp] theorem recordError_cfg (e : CmdError) : (recordError e s).cfg = s.cfg := by unfold recordError; split <;> rfl
@[simp] theorem recordError_lut (e : CmdError) : (recordError e s).lut = s.lut := by unfold recordError; split <;> rfl
@[simp] theorem recordError_fb (e : CmdError) : (recordError e s).fb = s.fb := by unfold recordError; split <;> rfl
@[simp] theorem recordError_txPhase (e : CmdError) : (recordError e s).txPhase = s.txPhase := by unfold recordError; split <;> rfl
@[simp] theorem recordError_txSlot (e : CmdError) : (recordError e s).txSlot = s.txSlot := by unfold recordError; split <;> rfl
@[simp] theorem recordError_txBit (e : CmdError) : (recordError e s).txBit = s.txBit := by unfold recordError; split <;> rfl
@[simp] theorem recordError_dout (e : CmdError) : (recordError e s).dout = s.dout := by unfold recordError; split <;> rfl
@[simp] theorem recordError_trace (e : CmdError) : (recordError e s).trace = s.trace := by unfold recordError; split <;> rfl
@[simp] theorem recordError_reads (e : CmdError) : (recordError e s).reads = s.reads := by unfold recordError; split <;> rfl
@[simp] theorem recordError_inputs (e : CmdError) : (recordError e s).inputs = s.inputs := by unfold recordError; split <;> rfl

/-! ### writeStatus -/

@[simp] theorem writeStatus_params (w : Word) : (writeStatus w s).params = s.params := by unfold writeStatus; split <;> rfl
@[simp] theorem writeStatus_rst (w : Word) : (writeStatus w s).rst = s.rst := by unfold writeStatus; split <;> rfl
@[simp] theorem writeStatus_held (w : Word) : (writeStatus w s).held = s.held := by unfold writeStatus; split <;> rfl
@[simp] theorem writeStatus_pending (w : Word) : (writeStatus w s).pending = s.pending := by unfold writeStatus; split <;> rfl
@[simp] theorem writeStatus_txEn (w : Word) : (writeStatus w s).txEn = s.txEn := by unfold writeStatus; split <;> rfl
@[simp] theorem writeStatus_lutValid (w : Word) : (writeStatus w s).lutValid = s.lutValid := by unfold writeStatus; split <;> rfl
@[simp] theorem writeStatus_color (w : Word) : (writeStatus w s).color = s.color := by unfold writeStatus; split <;> rfl
@[simp] theorem writeStatus_result (w : Word) : (writeStatus w s).result = s.result := by unfold writeStatus; split <;> rfl
@[simp] theorem writeStatus_stgGamma (w : Word) : (writeStatus w s).stgGamma = s.stgGamma := by unfold writeStatus; split <;> rfl
@[simp] theorem writeStatus_stgRatio (w : Word) : (writeStatus w s).stgRatio = s.stgRatio := by unfold writeStatus; split <;> rfl
@[simp] theorem writeStatus_stgCfg (w : Word) : (writeStatus w s).stgCfg = s.stgCfg := by unfold writeStatus; split <;> rfl
@[simp] theorem writeStatus_cfg (w : Word) : (writeStatus w s).cfg = s.cfg := by unfold writeStatus; split <;> rfl
@[simp] theorem writeStatus_lut (w : Word) : (writeStatus w s).lut = s.lut := by unfold writeStatus; split <;> rfl
@[simp] theorem writeStatus_fb (w : Word) : (writeStatus w s).fb = s.fb := by unfold writeStatus; split <;> rfl
@[simp] theorem writeStatus_txPhase (w : Word) : (writeStatus w s).txPhase = s.txPhase := by unfold writeStatus; split <;> rfl
@[simp] theorem writeStatus_txSlot (w : Word) : (writeStatus w s).txSlot = s.txSlot := by unfold writeStatus; split <;> rfl
@[simp] theorem writeStatus_txBit (w : Word) : (writeStatus w s).txBit = s.txBit := by unfold writeStatus; split <;> rfl
@[simp] theorem writeStatus_dout (w : Word) : (writeStatus w s).dout = s.dout := by unfold writeStatus; split <;> rfl
@[simp] theorem writeStatus_trace (w : Word) : (writeStatus w s).trace = s.trace := by unfold writeStatus; split <;> rfl
@[simp] theorem writeStatus_reads (w : Word) : (writeStatus w s).reads = s.reads := by unfold writeStatus; split <;> rfl
@[simp] theorem writeStatus_inputs (w : Word) : (writeStatus w s).inputs = s.inputs := by unfold writeStatus; split <;> rfl

/-! ### commitLut -/

@[simp] theorem commitLut_params (old : Word) : (commitLut old s).params = s.params := by
  unfold commitLut; split <;> [rfl; split <;> rfl]
@[simp] theorem commitLut_rst (old : Word) : (commitLut old s).rst = s.rst := by
  unfold commitLut; split <;> [rfl; split <;> rfl]
@[simp] theorem commitLut_held (old : Word) : (commitLut old s).held = s.held := by
  unfold commitLut; split <;> [rfl; split <;> rfl]
@[simp] theorem commitLut_pending (old : Word) : (commitLut old s).pending = s.pending := by
  unfold commitLut; split <;> [rfl; split <;> rfl]
@[simp] theorem commitLut_txEn (old : Word) : (commitLut old s).txEn = s.txEn := by
  unfold commitLut; split <;> [rfl; split <;> rfl]
@[simp] theorem commitLut_lutValid (old : Word) : (commitLut old s).lutValid = s.cfg.enGamma || (s.cfg.gamma == old && s.lutValid) := by
  unfold commitLut; split <;> [simp_all; split <;> simp_all]
@[simp] theorem commitLut_err (old : Word) : (commitLut old s).err = s.err := by
  unfold commitLut; split <;> [rfl; split <;> rfl]
@[simp] theorem commitLut_errCode (old : Word) : (commitLut old s).errCode = s.errCode := by
  unfold commitLut; split <;> [rfl; split <;> rfl]
@[simp] theorem commitLut_color (old : Word) : (commitLut old s).color = s.color := by
  unfold commitLut; split <;> [rfl; split <;> rfl]
@[simp] theorem commitLut_result (old : Word) : (commitLut old s).result = s.result := by
  unfold commitLut; split <;> [rfl; split <;> rfl]
@[simp] theorem commitLut_stgGamma (old : Word) : (commitLut old s).stgGamma = s.stgGamma := by
  unfold commitLut; split <;> [rfl; split <;> rfl]
@[simp] theorem commitLut_stgRatio (old : Word) : (commitLut old s).stgRatio = s.stgRatio := by
  unfold commitLut; split <;> [rfl; split <;> rfl]
@[simp] theorem commitLut_stgCfg (old : Word) : (commitLut old s).stgCfg = s.stgCfg := by
  unfold commitLut; split <;> [rfl; split <;> rfl]
@[simp] theorem commitLut_cfg (old : Word) : (commitLut old s).cfg = s.cfg := by
  unfold commitLut; split <;> [rfl; split <;> rfl]
@[simp] theorem commitLut_lut (old : Word) : (commitLut old s).lut = if s.cfg.enGamma then gammaTable s.cfg.gamma else s.lut := by unfold commitLut; split <;> [rfl; split <;> rfl]
@[simp] theorem commitLut_fb (old : Word) : (commitLut old s).fb = s.fb := by
  unfold commitLut; split <;> [rfl; split <;> rfl]
@[simp] theorem commitLut_txPhase (old : Word) : (commitLut old s).txPhase = s.txPhase := by
  unfold commitLut; split <;> [rfl; split <;> rfl]
@[simp] theorem commitLut_txSlot (old : Word) : (commitLut old s).txSlot = s.txSlot := by
  unfold commitLut; split <;> [rfl; split <;> rfl]
@[simp] theorem commitLut_txBit (old : Word) : (commitLut old s).txBit = s.txBit := by
  unfold commitLut; split <;> [rfl; split <;> rfl]
@[simp] theorem commitLut_dout (old : Word) : (commitLut old s).dout = s.dout := by
  unfold commitLut; split <;> [rfl; split <;> rfl]
@[simp] theorem commitLut_trace (old : Word) : (commitLut old s).trace = s.trace := by
  unfold commitLut; split <;> [rfl; split <;> rfl]
@[simp] theorem commitLut_reads (old : Word) : (commitLut old s).reads = s.reads := by
  unfold commitLut; split <;> [rfl; split <;> rfl]
@[simp] theorem commitLut_inputs (old : Word) : (commitLut old s).inputs = s.inputs := by
  unfold commitLut; split <;> [rfl; split <;> rfl]

/-! ### lazyBuild -/

@[simp] theorem lazyBuild_params : (lazyBuild s).params = s.params := by unfold lazyBuild; split <;> rfl
@[simp] theorem lazyBuild_rst : (lazyBuild s).rst = s.rst := by unfold lazyBuild; split <;> rfl
@[simp] theorem lazyBuild_held : (lazyBuild s).held = s.held := by unfold lazyBuild; split <;> rfl
@[simp] theorem lazyBuild_pending : (lazyBuild s).pending = s.pending := by unfold lazyBuild; split <;> rfl
@[simp] theorem lazyBuild_txEn : (lazyBuild s).txEn = s.txEn := by unfold lazyBuild; split <;> rfl
@[simp] theorem lazyBuild_lutValid : (lazyBuild s).lutValid = (s.cfg.enGamma || s.lutValid) := by
  cases h1 : s.cfg.enGamma <;> cases h2 : s.lutValid <;> simp [lazyBuild, h1, h2]
@[simp] theorem lazyBuild_err : (lazyBuild s).err = s.err := by unfold lazyBuild; split <;> rfl
@[simp] theorem lazyBuild_errCode : (lazyBuild s).errCode = s.errCode := by unfold lazyBuild; split <;> rfl
@[simp] theorem lazyBuild_color : (lazyBuild s).color = s.color := by unfold lazyBuild; split <;> rfl
@[simp] theorem lazyBuild_result : (lazyBuild s).result = s.result := by unfold lazyBuild; split <;> rfl
@[simp] theorem lazyBuild_stgGamma : (lazyBuild s).stgGamma = s.stgGamma := by unfold lazyBuild; split <;> rfl
@[simp] theorem lazyBuild_stgRatio : (lazyBuild s).stgRatio = s.stgRatio := by unfold lazyBuild; split <;> rfl
@[simp] theorem lazyBuild_stgCfg : (lazyBuild s).stgCfg = s.stgCfg := by unfold lazyBuild; split <;> rfl
@[simp] theorem lazyBuild_cfg : (lazyBuild s).cfg = s.cfg := by unfold lazyBuild; split <;> rfl
@[simp] theorem lazyBuild_lut : (lazyBuild s).lut = if s.cfg.enGamma && !s.lutValid then gammaTable s.cfg.gamma else s.lut := by
  unfold lazyBuild; split <;> rfl
@[simp] theorem lazyBuild_fb : (lazyBuild s).fb = s.fb := by unfold lazyBuild; split <;> rfl
@[simp] theorem lazyBuild_txPhase : (lazyBuild s).txPhase = s.txPhase := by unfold lazyBuild; split <;> rfl
@[simp] theorem lazyBuild_txSlot : (lazyBuild s).txSlot = s.txSlot := by unfold lazyBuild; split <;> rfl
@[simp] theorem lazyBuild_txBit : (lazyBuild s).txBit = s.txBit := by unfold lazyBuild; split <;> rfl
@[simp] theorem lazyBuild_dout : (lazyBuild s).dout = s.dout := by unfold lazyBuild; split <;> rfl
@[simp] theorem lazyBuild_trace : (lazyBuild s).trace = s.trace := by unfold lazyBuild; split <;> rfl
@[simp] theorem lazyBuild_reads : (lazyBuild s).reads = s.reads := by unfold lazyBuild; split <;> rfl
@[simp] theorem lazyBuild_inputs : (lazyBuild s).inputs = s.inputs := by unfold lazyBuild; split <;> rfl

/-! ### completeFrame -/

@[simp] theorem completeFrame_params (fb : FrameBuffer) : (completeFrame fb s).params = s.params := rfl
@[simp] theorem completeFrame_rst (fb : FrameBuffer) : (completeFrame fb s).rst = s.rst := rfl
@[simp] theorem completeFrame_held (fb : FrameBuffer) : (completeFrame fb s).held = s.held := rfl
@[simp] theorem completeFrame_pending (fb : FrameBuffer) : (completeFrame fb s).pending = none := rfl
@[simp] theorem completeFrame_txEn (fb : FrameBuffer) : (completeFrame fb s).txEn = s.txEn := rfl
@[simp] theorem completeFrame_lutValid (fb : FrameBuffer) : (completeFrame fb s).lutValid = s.lutValid := rfl
@[simp] theorem completeFrame_err (fb : FrameBuffer) : (completeFrame fb s).err = s.err := rfl
@[simp] theorem completeFrame_errCode (fb : FrameBuffer) : (completeFrame fb s).errCode = s.errCode := rfl
@[simp] theorem completeFrame_color (fb : FrameBuffer) : (completeFrame fb s).color = s.color := rfl
@[simp] theorem completeFrame_result (fb : FrameBuffer) : (completeFrame fb s).result = s.result := rfl
@[simp] theorem completeFrame_stgGamma (fb : FrameBuffer) : (completeFrame fb s).stgGamma = s.stgGamma := rfl
@[simp] theorem completeFrame_stgRatio (fb : FrameBuffer) : (completeFrame fb s).stgRatio = s.stgRatio := rfl
@[simp] theorem completeFrame_stgCfg (fb : FrameBuffer) : (completeFrame fb s).stgCfg = s.stgCfg := rfl
@[simp] theorem completeFrame_cfg (fb : FrameBuffer) : (completeFrame fb s).cfg = s.cfg := rfl
@[simp] theorem completeFrame_lut (fb : FrameBuffer) : (completeFrame fb s).lut = s.lut := rfl
@[simp] theorem completeFrame_fb (fb : FrameBuffer) : (completeFrame fb s).fb = s.fb := rfl
@[simp] theorem completeFrame_txPhase (fb : FrameBuffer) : (completeFrame fb s).txPhase = .idle := rfl
@[simp] theorem completeFrame_txSlot (fb : FrameBuffer) : (completeFrame fb s).txSlot = 24 := rfl
@[simp] theorem completeFrame_txBit (fb : FrameBuffer) : (completeFrame fb s).txBit = 0 := rfl
@[simp] theorem completeFrame_dout (fb : FrameBuffer) : (completeFrame fb s).dout = false := rfl
@[simp] theorem completeFrame_trace (fb : FrameBuffer) : (completeFrame fb s).trace = s.trace ++ remainingEvents s fb := rfl
@[simp] theorem completeFrame_reads (fb : FrameBuffer) : (completeFrame fb s).reads = s.reads := rfl
@[simp] theorem completeFrame_inputs (fb : FrameBuffer) : (completeFrame fb s).inputs = s.inputs := rfl

/-! ### startFrame -/

@[simp] theorem startFrame_params : (startFrame s).params = s.params := rfl
@[simp] theorem startFrame_rst : (startFrame s).rst = s.rst := rfl
@[simp] theorem startFrame_held : (startFrame s).held = s.held := rfl
@[simp] theorem startFrame_pending : (startFrame s).pending = s.pending := rfl
@[simp] theorem startFrame_txEn : (startFrame s).txEn = s.txEn := rfl
@[simp] theorem startFrame_lutValid : (startFrame s).lutValid = s.lutValid := rfl
@[simp] theorem startFrame_err : (startFrame s).err = s.err := rfl
@[simp] theorem startFrame_errCode : (startFrame s).errCode = s.errCode := rfl
@[simp] theorem startFrame_color : (startFrame s).color = s.color := rfl
@[simp] theorem startFrame_result : (startFrame s).result = s.result := rfl
@[simp] theorem startFrame_stgGamma : (startFrame s).stgGamma = s.stgGamma := rfl
@[simp] theorem startFrame_stgRatio : (startFrame s).stgRatio = s.stgRatio := rfl
@[simp] theorem startFrame_stgCfg : (startFrame s).stgCfg = s.stgCfg := rfl
@[simp] theorem startFrame_cfg : (startFrame s).cfg = s.cfg := rfl
@[simp] theorem startFrame_lut : (startFrame s).lut = s.lut := rfl
@[simp] theorem startFrame_fb : (startFrame s).fb = s.fb := rfl
@[simp] theorem startFrame_txPhase : (startFrame s).txPhase = .data := rfl
@[simp] theorem startFrame_txSlot : (startFrame s).txSlot = 0 := rfl
@[simp] theorem startFrame_txBit : (startFrame s).txBit = 23 := rfl
@[simp] theorem startFrame_dout : (startFrame s).dout = true := rfl
@[simp] theorem startFrame_trace : (startFrame s).trace = s.trace := rfl
@[simp] theorem startFrame_reads : (startFrame s).reads = s.reads := rfl
@[simp] theorem startFrame_inputs : (startFrame s).inputs = s.inputs := rfl

/-! ### nextBit -/

@[simp] theorem nextBit_params (fb : FrameBuffer) : (nextBit fb s).params = s.params := by
  unfold nextBit; split <;> [rfl; split <;> rfl]
@[simp] theorem nextBit_rst (fb : FrameBuffer) : (nextBit fb s).rst = s.rst := by
  unfold nextBit; split <;> [rfl; split <;> rfl]
@[simp] theorem nextBit_held (fb : FrameBuffer) : (nextBit fb s).held = s.held := by
  unfold nextBit; split <;> [rfl; split <;> rfl]
@[simp] theorem nextBit_pending (fb : FrameBuffer) : (nextBit fb s).pending = s.pending := by
  unfold nextBit; split <;> [rfl; split <;> rfl]
@[simp] theorem nextBit_txEn (fb : FrameBuffer) : (nextBit fb s).txEn = s.txEn := by
  unfold nextBit; split <;> [rfl; split <;> rfl]
@[simp] theorem nextBit_lutValid (fb : FrameBuffer) : (nextBit fb s).lutValid = s.lutValid := by
  unfold nextBit; split <;> [rfl; split <;> rfl]
@[simp] theorem nextBit_err (fb : FrameBuffer) : (nextBit fb s).err = s.err := by
  unfold nextBit; split <;> [rfl; split <;> rfl]
@[simp] theorem nextBit_errCode (fb : FrameBuffer) : (nextBit fb s).errCode = s.errCode := by
  unfold nextBit; split <;> [rfl; split <;> rfl]
@[simp] theorem nextBit_color (fb : FrameBuffer) : (nextBit fb s).color = s.color := by
  unfold nextBit; split <;> [rfl; split <;> rfl]
@[simp] theorem nextBit_result (fb : FrameBuffer) : (nextBit fb s).result = s.result := by
  unfold nextBit; split <;> [rfl; split <;> rfl]
@[simp] theorem nextBit_stgGamma (fb : FrameBuffer) : (nextBit fb s).stgGamma = s.stgGamma := by
  unfold nextBit; split <;> [rfl; split <;> rfl]
@[simp] theorem nextBit_stgRatio (fb : FrameBuffer) : (nextBit fb s).stgRatio = s.stgRatio := by
  unfold nextBit; split <;> [rfl; split <;> rfl]
@[simp] theorem nextBit_stgCfg (fb : FrameBuffer) : (nextBit fb s).stgCfg = s.stgCfg := by
  unfold nextBit; split <;> [rfl; split <;> rfl]
@[simp] theorem nextBit_cfg (fb : FrameBuffer) : (nextBit fb s).cfg = s.cfg := by
  unfold nextBit; split <;> [rfl; split <;> rfl]
@[simp] theorem nextBit_lut (fb : FrameBuffer) : (nextBit fb s).lut = s.lut := by
  unfold nextBit; split <;> [rfl; split <;> rfl]
@[simp] theorem nextBit_fb (fb : FrameBuffer) : (nextBit fb s).fb = s.fb := by
  unfold nextBit; split <;> [rfl; split <;> rfl]
@[simp] theorem nextBit_reads (fb : FrameBuffer) : (nextBit fb s).reads = s.reads := by
  unfold nextBit; split <;> [rfl; split <;> rfl]
@[simp] theorem nextBit_inputs (fb : FrameBuffer) : (nextBit fb s).inputs = s.inputs := by
  unfold nextBit; split <;> [rfl; split <;> rfl]

/-! ### txAdvance -/

@[simp] theorem txAdvance_params : (txAdvance s).params = s.params := by
  unfold txAdvance; split <;> [rfl; (split <;> [split <;> simp; simp; split <;> simp; rfl])]
@[simp] theorem txAdvance_rst : (txAdvance s).rst = s.rst := by
  unfold txAdvance; split <;> [rfl; (split <;> [split <;> simp; simp; split <;> simp; rfl])]
@[simp] theorem txAdvance_held : (txAdvance s).held = s.held := by
  unfold txAdvance; split <;> [rfl; (split <;> [split <;> simp; simp; split <;> simp; rfl])]
@[simp] theorem txAdvance_pending : (txAdvance s).pending = s.pending := by
  unfold txAdvance; split <;> [rfl; (split <;> [split <;> simp; simp; split <;> simp; rfl])]
@[simp] theorem txAdvance_txEn : (txAdvance s).txEn = s.txEn := by
  unfold txAdvance; split <;> [rfl; (split <;> [split <;> simp; simp; split <;> simp; rfl])]
@[simp] theorem txAdvance_lutValid : (txAdvance s).lutValid = s.lutValid := by
  unfold txAdvance; split <;> [rfl; (split <;> [split <;> simp; simp; split <;> simp; rfl])]
@[simp] theorem txAdvance_err : (txAdvance s).err = s.err := by
  unfold txAdvance; split <;> [rfl; (split <;> [split <;> simp; simp; split <;> simp; rfl])]
@[simp] theorem txAdvance_errCode : (txAdvance s).errCode = s.errCode := by
  unfold txAdvance; split <;> [rfl; (split <;> [split <;> simp; simp; split <;> simp; rfl])]
@[simp] theorem txAdvance_color : (txAdvance s).color = s.color := by
  unfold txAdvance; split <;> [rfl; (split <;> [split <;> simp; simp; split <;> simp; rfl])]
@[simp] theorem txAdvance_result : (txAdvance s).result = s.result := by
  unfold txAdvance; split <;> [rfl; (split <;> [split <;> simp; simp; split <;> simp; rfl])]
@[simp] theorem txAdvance_stgGamma : (txAdvance s).stgGamma = s.stgGamma := by
  unfold txAdvance; split <;> [rfl; (split <;> [split <;> simp; simp; split <;> simp; rfl])]
@[simp] theorem txAdvance_stgRatio : (txAdvance s).stgRatio = s.stgRatio := by
  unfold txAdvance; split <;> [rfl; (split <;> [split <;> simp; simp; split <;> simp; rfl])]
@[simp] theorem txAdvance_stgCfg : (txAdvance s).stgCfg = s.stgCfg := by
  unfold txAdvance; split <;> [rfl; (split <;> [split <;> simp; simp; split <;> simp; rfl])]
@[simp] theorem txAdvance_cfg : (txAdvance s).cfg = s.cfg := by
  unfold txAdvance; split <;> [rfl; (split <;> [split <;> simp; simp; split <;> simp; rfl])]
@[simp] theorem txAdvance_lut : (txAdvance s).lut = s.lut := by
  unfold txAdvance; split <;> [rfl; (split <;> [split <;> simp; simp; split <;> simp; rfl])]
@[simp] theorem txAdvance_fb : (txAdvance s).fb = s.fb := by
  unfold txAdvance; split <;> [rfl; (split <;> [split <;> simp; simp; split <;> simp; rfl])]
@[simp] theorem txAdvance_reads : (txAdvance s).reads = s.reads := by
  unfold txAdvance; split <;> [rfl; (split <;> [split <;> simp; simp; split <;> simp; rfl])]
@[simp] theorem txAdvance_inputs : (txAdvance s).inputs = s.inputs := by
  unfold txAdvance; split <;> [rfl; (split <;> [split <;> simp; simp; split <;> simp; rfl])]

end Sys2Proof.Laws
end

