-- ==== Sys2Proof/Laws/Ops.lean ====
section
/-! SUPPORT. For each shared operation one lemma that says all it can do, and the laws of the register layouts. -/

namespace Sys2Proof.Laws

open Sys2Proof.Machine

/-- A command error: the record, and completion. -/
theorem raise_eq (e : CmdError) (s : State) :
    raise e s = .next { s with pending := none, err := true, errCode := if s.err then s.errCode else e.code } := by
  unfold raise recordError complete
  split <;> simp_all

/-- A read answers the host and changes nothing else. -/
theorem busRead_eq {s : State} (h : s.rst = false) (v : Word) :
    busRead v s = .next { s with reads := s.reads ++ [v] } := by simp [busRead, h]

/-- A write has its effect. -/
theorem busWrite_eq {s : State} (h : s.rst = false) (f : State → State) : busWrite f s = .next (f s) := by
  simp [busWrite, h]

/-- A bus operation while `rst` = 1. -/
theorem busRead_in_reset {s : State} (h : s.rst = true) (v : Word) :
    busRead v s = .next { s with reads := s.reads ++ [0] } := by simp [busRead, h]

theorem busWrite_in_reset {s : State} (h : s.rst = true) (f : State → State) : busWrite f s = .next s := by
  simp [busWrite, h]

/-- What `commitLut` does, as one record update. -/
theorem commitLut_eq (old : Word) (s : State) :
    commitLut old s = { s with
      lut := if s.cfg.enGamma then gammaTable s.cfg.gamma else s.lut
      lutValid := s.cfg.enGamma || (s.cfg.gamma == old && s.lutValid) } := by
  unfold commitLut buildLut
  split
  · simp_all
  · split <;> simp_all

/-- What `lazyBuild` does, as one record update, when a valid LUT is the table of CFG.GAMMA. -/
theorem lazyBuild_eq {s : State} (h : s.lutValid = true → s.lut = gammaTable s.cfg.gamma) :
    lazyBuild s = { s with
      lut := if s.cfg.enGamma then gammaTable s.cfg.gamma else s.lut
      lutValid := s.cfg.enGamma || s.lutValid } := by
  rcases s with ⟨_, _, _, _, _, valid, _, _, _, _, _, _, _, ⟨_, _, _, enGamma, _, _⟩, _, _, _, _, _, _, _, _, _⟩
  cases valid <;> cases enGamma <;> simp_all [lazyBuild, buildLut]

/-- A slot of the FB after a write. -/
theorem writeSlot_getElem (s : State) (n m : Nat) (sl : Slot) (h : m < 25) :
    (writeSlot n sl s).fb[m] = if m = n then sl else s.fb[m] := by
  simp only [writeSlot_fb, Vector.getElem_setIfInBounds, eq_comm]

/-- FBDATA of a slot. -/
theorem fbWord_of_lt (fb : FrameBuffer) {n : Nat} (h : n < 25) : fbWord fb n = fb[n].toWord := dif_pos h

theorem fbWord_of_ge (fb : FrameBuffer) {n : Nat} (h : ¬ n < 25) : fbWord fb n = 0 := dif_neg h

/-- Every slot of the black frame reads 0. -/
theorem fbWord_blackFrame (n : Nat) : fbWord blackFrame n = 0 := by
  unfold fbWord
  split
  · simp [blackFrame, Slot.black, Slot.toWord]
  · rfl

/-- The fields of a word `{a, r, g, b}` of four bytes. -/
theorem extract_bytes (a r g b : Byte) :
    ((a ++ r ++ g ++ b : Word).extractLsb' 24 8 = a) ∧ ((a ++ r ++ g ++ b : Word).extractLsb' 16 8 = r) ∧
    ((a ++ r ++ g ++ b : Word).extractLsb' 8 8 = g) ∧ ((a ++ r ++ g ++ b : Word).extractLsb' 0 8 = b) := by
  refine ⟨?_, ?_, ?_, ?_⟩ <;>
  · apply BitVec.eq_of_getLsbD_eq
    intro i hi
    have : i < 8 := hi
    simp only [BitVec.getLsbD_extractLsb', BitVec.getLsbD_append, hi, decide_true, Bool.true_and]
    interval_cases i <;> rfl

end Sys2Proof.Laws
end

