-- ==== Sys2Proof/Laws/Decode.lean ====
section
/-! SUPPORT. The fields of what the encoder builds. -/

namespace Sys2Proof.Laws

open Sys2Proof

/-- The fields of a command word (R70, R71). -/
theorem commandWord_fields (opc y x : Byte) :
    opcField (commandWord opc y x) = opc ∧ yField (commandWord opc y x) = y ∧ lowField (commandWord opc y x) = x :=
  let h := extract_bytes opc 0 y x
  ⟨h.1, h.2.2.1, h.2.2.2⟩

/-- The fields of a pattern byte (R78). -/
theorem patternByte_fields : ∀ (write : Bool) (addr : BitVec 6),
    (patternByte write addr).getLsbD 7 = false ∧ (patternByte write addr).getLsbD 6 = write ∧
      (patternByte write addr).extractLsb' 0 6 = addr := by decide

/-- A pattern byte is always decoded. -/
theorem decode_access (write : Bool) (addr : BitVec 6) (d : Word) :
    decode (.access (patternByte write addr) d) = .ok (decodeRequest write addr d) := by
  obtain ⟨h7, h6, h5⟩ := patternByte_fields write addr
  simp only [decode, h7, h6, h5]
  rfl

/-- A command word never decodes to a bus access. -/
theorem decodeCommand_cases (w : Word) :
    decodeCommand w = .nop ∨ decodeCommand w = .init ∨ decodeCommand w = .configure ∨
    (∃ m, decodeCommand w = .preset m) ∨ decodeCommand w = .correct ∨ (∃ x y, decodeCommand w = .decode x y) ∨
    (∃ x y, decodeCommand w = .wrpix x y) ∨ (∃ x y, decodeCommand w = .wrpixraw x y) ∨
    (∃ n, decodeCommand w = .wrslotraw n) ∨ decodeCommand w = .flush ∨ ∃ o, decodeCommand w = .reservedOpc o := by
  unfold decodeCommand
  split <;> simp

end Sys2Proof.Laws
end

