-- ==== Sys2Proof/Laws/Gamma.lean ====
section
/-! SUPPORT. The bounds of `Machine/Gamma.lean` are bounds, so that `atLeast` decides exactly what `exactAtLeast`
says; the preset tables are the computed ones; what `thresholdsReached` returns. -/

namespace Sys2Proof.Laws

open Sys2Proof.Machine

/-- The rational number a bound stands for. -/
def approxValue (a : Approx) : ℚ := (a.m : ℚ) / 2 ^ a.s

theorem approxValue_nonneg (a : Approx) : 0 ≤ approxValue a := by
  unfold approxValue; positivity

theorem shedBits_le (m s : Nat) : shedBits m s ≤ s := Nat.min_le_right _ _

/-- Shedding `d ≤ s` bits divides significand and scale by the same power. -/
theorem div_shift (m : ℚ) {s d : Nat} (h : d ≤ s) : m / 2 ^ d / 2 ^ (s - d) = m / 2 ^ s := by
  rw [div_div, ← pow_add, Nat.add_sub_cancel' h]

theorem roundDown_le (m s : Nat) : approxValue (.roundDown m s) ≤ (m : ℚ) / 2 ^ s := by
  unfold approxValue Approx.roundDown
  rw [← div_shift (m : ℚ) (shedBits_le m s)]
  gcongr
  exact_mod_cast @Nat.cast_div_le ℚ _ _ _ m (2 ^ shedBits m s)

theorem le_roundUp (m s : Nat) : (m : ℚ) / 2 ^ s ≤ approxValue (.roundUp m s) := by
  unfold approxValue Approx.roundUp
  rw [← div_shift (m : ℚ) (shedBits_le m s)]
  gcongr
  rw [div_le_iff₀ (by positivity)]
  have h := Nat.lt_div_mul_add (a := m) (b := 2 ^ shedBits m s) (by positivity)
  have : m ≤ (m / 2 ^ shedBits m s + 1) * 2 ^ shedBits m s := by rw [Nat.add_mul, Nat.one_mul]; omega
  exact_mod_cast this

theorem product_value (a b : Approx) :
    ((a.m * b.m : Nat) : ℚ) / 2 ^ (a.s + b.s) = approxValue a * approxValue b := by
  unfold approxValue; push_cast; rw [pow_add, div_mul_div_comm]

theorem mulDown_le (a b : Approx) : approxValue (mulDown a b) ≤ approxValue a * approxValue b :=
  (roundDown_le _ _).trans_eq (product_value a b)

theorem le_mulUp (a b : Approx) : approxValue a * approxValue b ≤ approxValue (mulUp a b) :=
  (product_value a b).symm.trans_le (le_roundUp _ _)

/-- Repeated squaring of a lower bound is a lower bound of the power. -/
theorem squarings_mulDown_le (k : Nat) (a : Approx) {x : ℚ} (h : approxValue a ≤ x) :
    approxValue (squarings mulDown k a) ≤ x ^ 2 ^ k := by
  induction k generalizing a x with
  | zero => simpa [squarings] using h
  | succ k ih =>
    rw [pow_succ', pow_mul, pow_two]
    exact ih _ ((mulDown_le a a).trans (mul_le_mul h h (approxValue_nonneg a) ((approxValue_nonneg a).trans h)))

/-- Repeated squaring of an upper bound is an upper bound of the power. -/
theorem le_squarings_mulUp (k : Nat) (a : Approx) {x : ℚ} (h0 : 0 ≤ x) (h : x ≤ approxValue a) :
    x ^ 2 ^ k ≤ approxValue (squarings mulUp k a) := by
  induction k generalizing a x with
  | zero => simpa [squarings] using h
  | succ k ih =>
    rw [pow_succ', pow_mul, pow_two]
    exact ih _ (mul_nonneg h0 h0) ((mul_le_mul h h h0 (approxValue_nonneg a)).trans (le_mulUp a a))

/-- `n` from its half, as powers. -/
theorem pow_halves (x : ℚ) (n : Nat) :
    x ^ n = if n % 2 = 1 then x ^ (n / 2) * x ^ (n / 2) * x else x ^ (n / 2) * x ^ (n / 2) := by
  split
  · rw [← pow_add, ← pow_succ]; congr 1; omega
  · rw [← pow_add]; congr 1; omega

theorem power_mulDown_le {a : Approx} {x : ℚ} (h : approxValue a ≤ x) (fuel : Nat) :
    ∀ n < 2 ^ fuel, approxValue (power mulDown a fuel n) ≤ x ^ n := by
  have hx := (approxValue_nonneg a).trans h
  induction fuel with
  | zero => intro n hn; obtain rfl : n = 0 := by omega
            simp [power, approxValue]
  | succ fuel ih =>
    intro n hn
    rw [power]
    split
    · subst_vars; simp [approxValue]
    split
    · subst_vars; simpa using h
    have hh := ih (n / 2) (by omega)
    have sq := (mulDown_le _ _).trans (mul_le_mul hh hh (approxValue_nonneg _) (by positivity))
    rw [pow_halves]
    split
    · exact (mulDown_le _ _).trans (mul_le_mul sq h (approxValue_nonneg _) (by positivity))
    · exact sq

theorem le_power_mulUp {a : Approx} {x : ℚ} (h0 : 0 ≤ x) (h : x ≤ approxValue a) (fuel : Nat) :
    ∀ n < 2 ^ fuel, x ^ n ≤ approxValue (power mulUp a fuel n) := by
  induction fuel with
  | zero => intro n hn; obtain rfl : n = 0 := by omega
            simp [power, approxValue]
  | succ fuel ih =>
    intro n hn
    rw [power]
    split
    · subst_vars; simp [approxValue]
    split
    · subst_vars; simpa using h
    have hh := ih (n / 2) (by omega)
    have sq := (mul_le_mul hh hh (by positivity) (approxValue_nonneg _)).trans (le_mulUp _ _)
    rw [pow_halves]
    split
    · exact (mul_le_mul sq h h0 (approxValue_nonneg _)).trans (le_mulUp _ _)
    · exact sq

theorem fractionDown_le (a b : Nat) : approxValue (fractionDown a b) ≤ (a : ℚ) / b := by
  unfold approxValue fractionDown
  rw [div_le_iff₀ (by positivity)]
  calc ((a * 2 ^ fractionScale a b / b : Nat) : ℚ) ≤ ((a * 2 ^ fractionScale a b : Nat) : ℚ) / b := Nat.cast_div_le
    _ = (a : ℚ) / b * 2 ^ fractionScale a b := by push_cast; ring

theorem le_fractionUp (a : Nat) {b : Nat} (hb : 0 < b) : (a : ℚ) / b ≤ approxValue (fractionUp a b) := by
  unfold approxValue fractionUp
  have hb' : (0 : ℚ) < b := by exact_mod_cast hb
  rw [div_le_div_iff₀ hb' (by positivity)]
  have h := Nat.lt_div_mul_add (a := a * 2 ^ fractionScale a b) (b := b) hb
  have : a * 2 ^ fractionScale a b ≤ (a * 2 ^ fractionScale a b / b + 1) * b := by
    rw [Nat.add_mul, Nat.one_mul]; omega
  exact_mod_cast this

/-- Two bounds brought to one scale. -/
theorem value_le_iff {a b : Approx} (h : a.s ≤ b.s) :
    approxValue b ≤ approxValue a ↔ b.m ≤ a.m * 2 ^ (b.s - a.s) := by
  unfold approxValue
  obtain ⟨d, hd⟩ := Nat.exists_eq_add_of_le h
  rw [hd, Nat.add_sub_cancel_left, pow_add, div_le_div_iff₀ (by positivity) (by positivity), mul_comm ((2 : ℚ) ^ a.s),
    ← mul_assoc]
  rw [mul_le_mul_iff_left₀ (by positivity)]
  exact_mod_cast Iff.rfl

theorem le_value_iff {a b : Approx} (h : a.s ≤ b.s) :
    approxValue a ≤ approxValue b ↔ a.m * 2 ^ (b.s - a.s) ≤ b.m := by
  unfold approxValue
  obtain ⟨d, hd⟩ := Nat.exists_eq_add_of_le h
  rw [hd, Nat.add_sub_cancel_left, pow_add, div_le_div_iff₀ (by positivity) (by positivity), mul_comm ((2 : ℚ) ^ a.s),
    ← mul_assoc]
  rw [mul_le_mul_iff_left₀ (by positivity)]
  exact_mod_cast Iff.rfl

theorem big_scale {d : Nat} (h : ¬ d < scaleGap) : 2 ^ scaleGap ≤ 2 ^ d :=
  Nat.pow_le_pow_right (by norm_num) (not_lt.mp h)

theorem surelyLe_sound {a b : Approx} (h : b.surelyLe a = true) : approxValue b ≤ approxValue a := by
  unfold Approx.surelyLe at h
  by_cases hs : a.s ≤ b.s
  · rw [if_pos hs] at h
    rw [value_le_iff hs]
    by_cases hd : b.s - a.s < scaleGap
    · rw [if_pos hd] at h; simpa using h
    · rw [if_neg hd] at h
      obtain ⟨h1, h2⟩ : 1 ≤ a.m ∧ b.m ≤ 2 ^ scaleGap := by simpa only [Bool.and_eq_true, decide_eq_true_eq] using h
      exact h2.trans ((big_scale hd).trans (Nat.le_mul_of_pos_left _ h1))
  · rw [if_neg hs] at h
    rw [le_value_iff (by omega)]
    exact (by simpa only [Bool.and_eq_true, decide_eq_true_eq] using h : _ ∧ _).2

theorem surelyLt_sound {a b : Approx} (h : a.surelyLt b = true) : approxValue a < approxValue b := by
  unfold Approx.surelyLt at h
  rw [← not_le]
  by_cases hs : b.s ≤ a.s
  · rw [if_pos hs] at h
    rw [le_value_iff hs, not_le]
    by_cases hd : a.s - b.s < scaleGap
    · rw [if_pos hd] at h; simpa using h
    · rw [if_neg hd] at h
      obtain ⟨h1, h2⟩ : 1 ≤ b.m ∧ a.m < 2 ^ scaleGap := by simpa only [Bool.and_eq_true, decide_eq_true_eq] using h
      exact h2.trans_le ((big_scale hd).trans (Nat.le_mul_of_pos_left _ h1))
  · rw [if_neg hs] at h
    rw [value_le_iff (by omega), not_le]
    exact (by simpa only [Bool.and_eq_true, decide_eq_true_eq] using h : _ ∧ _).2

/-- What `exactAtLeast` says, as a comparison of powers of rationals. -/
theorem exactAtLeast_iff (e : Exponent) (i t : Nat) :
    exactAtLeast e i t = true ↔
      ((t : ℚ) / (510 : Nat)) ^ 2 ^ e.down ≤ ((i : ℚ) / (255 : Nat)) ^ (e.num * 2 ^ e.up) := by
  rw [div_pow, div_pow, div_le_div_iff₀ (by positivity) (by positivity)]
  simp only [exactAtLeast, decide_eq_true_eq]
  exact_mod_cast Iff.rfl

theorem baseBound_down_le (e : Exponent) (h : e.num < 2 ^ 24) (i : Nat) :
    approxValue (baseBound mulDown (fractionDown i 255) e) ≤ ((i : ℚ) / (255 : Nat)) ^ (e.num * 2 ^ e.up) := by
  rw [pow_mul]
  exact squarings_mulDown_le _ _ (power_mulDown_le (fractionDown_le i 255) 24 _ h)

theorem le_baseBound_up (e : Exponent) (h : e.num < 2 ^ 24) (i : Nat) :
    ((i : ℚ) / (255 : Nat)) ^ (e.num * 2 ^ e.up) ≤ approxValue (baseBound mulUp (fractionUp i 255) e) := by
  rw [pow_mul]
  exact le_squarings_mulUp _ _ (by positivity)
    (le_power_mulUp (by positivity) (le_fractionUp i (by norm_num)) 24 _ h)

/-- The bounds never decide wrongly, so `atLeast` is `exactAtLeast`. -/
theorem atLeast_eq_exact (e : Exponent) (h : e.num < 2 ^ 24) (i t : Nat) : atLeast e i t = exactAtLeast e i t := by
  unfold atLeast
  split
  next hle =>
    refine ((exactAtLeast_iff e i t).mpr ?_).symm
    exact (le_squarings_mulUp _ _ (by positivity) (le_fractionUp t (by norm_num))).trans
      ((surelyLe_sound hle).trans (baseBound_down_le e h i))
  next =>
    split
    next hlt =>
      refine (Bool.eq_false_iff.mpr fun hex => ?_).symm
      have h1 := (exactAtLeast_iff e i t).mp hex
      exact absurd (h1.trans (le_baseBound_up e h i))
        (not_le.mpr ((surelyLt_sound hlt).trans_le (squarings_mulDown_le _ _ (fractionDown_le t 510))))
    next => rfl

theorem cancelTwos_le (fuel m k : Nat) : (cancelTwos fuel m k).1 ≤ m := by
  induction fuel generalizing m k with
  | zero => simp [cancelTwos]
  | succ fuel ih =>
    rw [cancelTwos]
    split
    · exact (ih _ _).trans (Nat.div_le_self m 2)
    · exact le_rfl

/-- Cancelling twos keeps the quotient. -/
theorem cancelTwos_value (fuel m k : Nat) :
    ((cancelTwos fuel m k).1 : ℚ) / 2 ^ (cancelTwos fuel m k).2 = (m : ℚ) / 2 ^ k := by
  induction fuel generalizing m k with
  | zero => simp [cancelTwos]
  | succ fuel ih =>
    rw [cancelTwos]
    split
    next h =>
      rw [ih]
      obtain ⟨j, rfl⟩ : ∃ j, k = j + 1 := ⟨k - 1, by omega⟩
      have hm : (m : ℚ) = (m / 2 : Nat) * 2 := by exact_mod_cast (Nat.div_mul_cancel (Nat.dvd_of_mod_eq_zero h.1)).symm
      rw [hm, Nat.add_sub_cancel, pow_succ]
      field_simp
    next => rfl

theorem significand_lt (w : Word) : significand w < 2 ^ 24 := by
  have h : fracField w < 2 ^ 23 := BitVec.isLt _
  unfold significand
  split <;> omega

theorem exponentOf_num_lt (w : Word) : (exponentOf w).num < 2 ^ 24 := by
  unfold exponentOf
  split
  · exact significand_lt w
  · exact (cancelTwos_le _ _ _).trans_lt (significand_lt w)

/-- A word with `isFinitePos` has the sign bit 0, so its value is its magnitude. -/
theorem bin32_of_isFinitePos {w : Word} (hw : isFinitePos w = true) : bin32 w = (bin32Magnitude w : ℚ) / 2 ^ 149 := by
  have : w.getLsbD 31 ≠ true := by simp_all [isFinitePos]
  rw [bin32, bin32Scaled, if_neg this, Int.cast_natCast]

/-- `exponentOf w` is the magnitude of `bin32 w`. -/
theorem exponentOf_magnitude (w : Word) :
    ((exponentOf w).num * 2 ^ (exponentOf w).up : ℚ) / 2 ^ (exponentOf w).down = (bin32Magnitude w : ℚ) / 2 ^ 149 := by
  unfold exponentOf bin32Magnitude
  have h1 : 1 ≤ biasedExp w := le_max_right _ _
  split
  next h =>
    have : biasedExp w - 1 = (biasedExp w - 150) + 149 := by omega
    rw [this, pow_add, eq_div_iff (by positivity)]; push_cast; ring
  next h =>
    have h2 := cancelTwos_value 24 (significand w) (150 - biasedExp w)
    simp only [pow_zero, mul_one, h2]
    push_cast
    rw [div_eq_div_iff (by positivity) (by positivity), mul_assoc, ← pow_add]
    congr 2; omega

/-- `exponentOf w` is `bin32 w` for every word the gamma table is defined for. -/
theorem exponentOf_value {w : Word} (hw : isFinitePos w = true) :
    ((exponentOf w).num * 2 ^ (exponentOf w).up : ℚ) / 2 ^ (exponentOf w).down = bin32 w := by
  rw [exponentOf_magnitude, bin32_of_isFinitePos hw]

/-- The bitwise search keeps the invariant that thresholds up to `n` are reached and those past `n + room` are not. -/
theorem thresholdsReached_spec (reaches : Nat → Bool) (k n : Nat)
    (low : 1 ≤ n → reaches (2 * n - 1) = true) (high : reaches (2 * (n + 2 ^ k) - 1) = false) :
    let r := thresholdsReached reaches ((List.range k).reverse.map (2 ^ ·)) n
    n ≤ r ∧ r < n + 2 ^ k ∧ (1 ≤ r → reaches (2 * r - 1) = true) ∧ reaches (2 * (r + 1) - 1) = false := by
  induction k generalizing n with
  | zero => simpa [thresholdsReached] using ⟨low, high⟩
  | succ k ih =>
    have hp : 2 ^ (k + 1) = 2 ^ k + 2 ^ k := by rw [pow_succ]; omega
    simp only [List.range_succ, List.reverse_append, List.reverse_singleton, List.singleton_append, List.map_cons,
      thresholdsReached]
    split
    next hr =>
      obtain ⟨h1, h2, h3, h4⟩ := ih (n + 2 ^ k) (fun _ => hr) (by rwa [Nat.add_assoc, ← hp])
      exact ⟨by omega, by omega, h3, h4⟩
    next hr =>
      obtain ⟨h1, h2, h3, h4⟩ := ih n low (by simpa using hr)
      exact ⟨by omega, by omega, h3, h4⟩

/-- An entry of the computed table: its own threshold is reached and the next is not. -/
theorem computedEntry_spec (w : Word) {i : Nat} (h0 : 0 < i) (h : i ≤ 255) :
    let r := computedEntry w i
    r ≤ 255 ∧ (1 ≤ r → exactAtLeast (exponentOf w) i (2 * r - 1) = true) ∧
      exactAtLeast (exponentOf w) i (2 * r + 1) = false := by
  have top : atLeast (exponentOf w) i (2 * (0 + 2 ^ 8) - 1) = false := by
    rw [atLeast_eq_exact _ (exponentOf_num_lt w), ← Bool.not_eq_true, exactAtLeast_iff, not_le]
    have hi : (i : ℚ) / (255 : Nat) ≤ 1 := by
      rw [div_le_one (by norm_num)]; exact_mod_cast h
    exact (pow_le_one₀ (by positivity) hi).trans_lt (one_lt_pow₀ (by norm_num) (by positivity))
  obtain ⟨-, h2, h3, h4⟩ := thresholdsReached_spec (atLeast (exponentOf w) i) 8 0 (by simp) top
  have hr : computedEntry w i = thresholdsReached (atLeast (exponentOf w) i) ((List.range 8).reverse.map (2 ^ ·)) 0 := by
    rw [computedEntry, if_neg (by omega)]; rfl
  simp only [hr]
  simp only [atLeast_eq_exact _ (exponentOf_num_lt w)] at h3 h4
  exact ⟨by omega, h3, h4⟩

/-- R112's table for 2.2 is the computed one. -/
theorem gamma22_computed : (List.range 256).map (computedEntry 0x400CCCCD) = gamma22Table := by decide +kernel

/-- R112's table for 2.5 is the computed one. -/
theorem gamma25_computed : (List.range 256).map (computedEntry 0x40200000) = gamma25Table := by decide +kernel

/-- R112's table for 2.8 is the computed one. -/
theorem gamma28_computed : (List.range 256).map (computedEntry 0x40333333) = gamma28Table := by decide +kernel

/-- A table that lists the computed entries holds each of them. -/
theorem getD_of_map_range {f : Nat → Nat} {l : List Nat} (h : (List.range 256).map f = l) {i : Nat} (hi : i < 256) :
    l.getD i 0 = f i := by
  subst h; simp [hi]

/-- For every exponent, the preset ones included, an entry is the computed one. -/
theorem gammaEntry_eq_computed (w : Word) {i : Nat} (hi : i < 256) : gammaEntry w i = computedEntry w i := by
  unfold gammaEntry
  split
  next h => rw [h]; exact getD_of_map_range gamma22_computed hi
  split
  next h => rw [h]; exact getD_of_map_range gamma25_computed hi
  split
  next h => rw [h]; exact getD_of_map_range gamma28_computed hi
  rfl

/-- The table, entry by entry. -/
theorem gammaTable_getElem (w : Word) (i : Nat) (h : i < 256) : (gammaTable w)[i] = BitVec.ofNat 8 (gammaEntry w i) := by
  simp [gammaTable]

end Sys2Proof.Laws
end

