-- ==== Sys2Proof/Laws/PerInstr.lean ====
section
/-! SUPPORT. A statement made per instruction: the encoder's bits match the instruction's own row of the opcode
table, mask and pattern. -/

namespace Sys2Proof.Laws.EncodingMatchesRow

open Sys2Proof

/-- The row's mask and pattern: for a command the table's `mask` and `match`; for a bus access the seven bits of the
pattern byte that R78 fixes, bit 7 always 0. -/
def rowOf : Instr → Word × Word
  | .nop => (0xFF000000, 0x00000000)
  | .init => (0xFF000000, 0x01000000)
  | .configure => (0xFF000000, 0x02000000)
  | .preset _ => (0xFF000000, 0x03000000)
  | .correct => (0xFF000000, 0x04000000)
  | .decode _ _ => (0xFF000000, 0x05000000)
  | .wrpix _ _ => (0xFF000000, 0x06000000)
  | .wrpixraw _ _ => (0xFF000000, 0x07000000)
  | .wrslotraw _ => (0xFF000000, 0x08000000)
  | .flush => (0xFF000000, 0x09000000)
  | .reservedOpc opc => (0xFF000000, opc ++ (0#24))
  | .busWCmd _ => (0xFF, 0b1000000)
  | .busRCmd => (0xFF, 0b0000000)
  | .busRStatus => (0xFF, 0b0000001)
  | .busWStatus _ => (0xFF, 0b1000001)
  | .busRColor => (0xFF, 0b0000010)
  | .busWColor _ => (0xFF, 0b1000010)
  | .busRResult => (0xFF, 0b0000011)
  | .busWStgGamma _ => (0xFF, 0b1000100)
  | .busWStgRatio _ => (0xFF, 0b1000101)
  | .busWStgCfg _ => (0xFF, 0b1000110)
  | .busRStgGamma => (0xFF, 0b0000100)
  | .busRStgRatio => (0xFF, 0b0000101)
  | .busRStgCfg => (0xFF, 0b0000110)
  | .busRFbdata _ => (0xE0, 0b0100000)
  | .busReserved _ _ => (0x80, 0)

/-- The bits the row's mask and pattern speak of. -/
def bitsOf : Fetched → Word
  | .command w => w
  | .access p _ => (0#24) ++ p

def Statement (i : Instr) : Prop := bitsOf (encode i) &&& (rowOf i).1 = (rowOf i).2

/-- A command word under the opcode mask is its opcode. -/
theorem command_matches (opc y x : Byte) : commandWord opc y x &&& 0xFF000000 = opc ++ (0#24) := by
  apply BitVec.eq_of_getLsbD_eq
  intro i hi
  simp only [commandWord, BitVec.getLsbD_and, BitVec.getLsbD_append]
  interval_cases i <;> simp

theorem nop : Statement .nop := by unfold Statement; decide
theorem init : Statement .init := by unfold Statement; decide
theorem configure : Statement .configure := by unfold Statement; decide
theorem preset (mode : Byte) : Statement (.preset mode) := command_matches 3 0 mode
theorem correct : Statement .correct := by unfold Statement; decide
theorem decode (x y : Byte) : Statement (.decode x y) := command_matches 5 y x
theorem wrpix (x y : Byte) : Statement (.wrpix x y) := command_matches 6 y x
theorem wrpixraw (x y : Byte) : Statement (.wrpixraw x y) := command_matches 7 y x
theorem wrslotraw (slot : Byte) : Statement (.wrslotraw slot) := command_matches 8 0 slot
theorem flush : Statement .flush := by unfold Statement; decide
theorem reservedOpc (opc : Byte) : Statement (.reservedOpc opc) := command_matches opc 0 0
theorem busWCmd (wdata : Word) : Statement (.busWCmd wdata) := by simp only [Statement, encode, bitsOf, rowOf]; decide
theorem busRCmd : Statement .busRCmd := by unfold Statement; decide
theorem busRStatus : Statement .busRStatus := by unfold Statement; decide
theorem busWStatus (wdata : Word) : Statement (.busWStatus wdata) := by simp only [Statement, encode, bitsOf, rowOf]; decide
theorem busRColor : Statement .busRColor := by unfold Statement; decide
theorem busWColor (wdata : Word) : Statement (.busWColor wdata) := by simp only [Statement, encode, bitsOf, rowOf]; decide
theorem busRResult : Statement .busRResult := by unfold Statement; decide
theorem busWStgGamma (wdata : Word) : Statement (.busWStgGamma wdata) := by simp only [Statement, encode, bitsOf, rowOf]; decide
theorem busWStgRatio (wdata : Word) : Statement (.busWStgRatio wdata) := by simp only [Statement, encode, bitsOf, rowOf]; decide
theorem busWStgCfg (wdata : Word) : Statement (.busWStgCfg wdata) := by simp only [Statement, encode, bitsOf, rowOf]; decide
theorem busRStgGamma : Statement .busRStgGamma := by unfold Statement; decide
theorem busRStgRatio : Statement .busRStgRatio := by unfold Statement; decide
theorem busRStgCfg : Statement .busRStgCfg := by unfold Statement; decide
theorem busRFbdata (n : BitVec 5) : Statement (.busRFbdata n) := by unfold Statement; revert n; decide
theorem busReserved (w : Bool) (a : BitVec 6) : Statement (.busReserved w a) := by unfold Statement; revert w a; decide

end Sys2Proof.Laws.EncodingMatchesRow
end

