-- ==== Sys2Proof/Laws/Transmit.lean ====
section
/-! SUPPORT. What one line event of the transmitter does, phase by phase, and when the TX has a frame to send. -/

namespace Sys2Proof.Laws

open Sys2Proof.Machine

variable {s : State} {p : Pending} {fb : FrameBuffer}

theorem txSource_of_none (h : s.pending = none) : txSource s = none := by simp [txSource, h]

theorem txSource_of_init (h : s.pending = some p) (hi : decodeCommand p.word = .init) :
    txSource s = some blackFrame := by simp [txSource, h, hi]

theorem txSource_of_flush (h : s.pending = some p) (hf : decodeCommand p.word = .flush) (he : s.txEn = true) :
    txSource s = some s.fb := by simp [txSource, h, hf, he]

theorem txSource_of_other (h : s.pending = some p) (hi : decodeCommand p.word ≠ .init)
    (hf : decodeCommand p.word ≠ .flush) : txSource s = none := by simp [txSource, h, hi, hf]

/-- No line event changes what is being sent. -/
@[simp] theorem txSource_txAdvance (s : State) : txSource (txAdvance s) = txSource s := by simp [txSource]

/-- Without a transmitting command the TX does nothing (R20). -/
theorem txAdvance_of_none (h : txSource s = none) : txAdvance s = s := by simp [txAdvance, h]

theorem txAdvance_idle_flush (hs : txSource s = some fb) (hp : s.pending = some p)
    (hf : decodeCommand p.word = .flush) (h : s.txPhase = .idle) : txAdvance s = startFrame s := by
  simp [txAdvance, hs, h, hp, hf]

theorem txAdvance_idle_init (hs : txSource s = some fb) (hp : s.pending = some p)
    (hi : decodeCommand p.word = .init) (h : s.txPhase = .idle) :
    txAdvance s = { s with txPhase := .lead, dout := false } := by simp [txAdvance, hs, h, hp, hi]

theorem txAdvance_lead (hs : txSource s = some fb) (h : s.txPhase = .lead) : txAdvance s = startFrame s := by
  simp [txAdvance, hs, h]

/-- The high part of a bit ends. -/
theorem txAdvance_high (hs : txSource s = some fb) (h : s.txPhase = .data) (hd : s.dout = true) :
    txAdvance s = { s with dout := false } := by simp [txAdvance, hs, h, hd]

/-- The low part of a bit ends. -/
theorem txAdvance_low (hs : txSource s = some fb) (h : s.txPhase = .data) (hd : s.dout = false) :
    txAdvance s = nextBit fb s := by simp [txAdvance, hs, h, hd]

theorem txAdvance_latch (h : s.txPhase = .latch) : txAdvance s = s := by
  unfold txAdvance; split <;> simp [h]

/-- The next bit of the same slot. -/
theorem nextBit_in_slot (h : 0 < s.txBit.val) :
    nextBit fb s = { s with txBit := ⟨s.txBit.val - 1, by omega⟩, dout := true } := if_pos h

/-- The first bit of the next slot. -/
theorem nextBit_next_slot (h : ¬ 0 < s.txBit.val) (hs : s.txSlot.val < 24) :
    nextBit fb s = { s with txSlot := ⟨s.txSlot.val + 1, by omega⟩, txBit := 23, dout := true } := by
  rw [nextBit, if_neg h, dif_pos hs]

/-- After the last bit of the last slot. -/
theorem nextBit_last (h : ¬ 0 < s.txBit.val) (hs : ¬ s.txSlot.val < 24) :
    nextBit fb s = { s with txPhase := .latch, trace := s.trace ++ [.frame (frameBits fb)] } := by
  rw [nextBit, if_neg h, dif_neg hs]

end Sys2Proof.Laws
end

