-- ==== Sys2Proof/Machine/Assembler.lean ====
section
/-! DEFINITION. The assembler syntax for host programs (R79) and the pseudo-instructions (R80), as the moves they
stand for. `WAITIDLE` is a loop of the host and no move of its own (R80). -/

namespace Sys2Proof.Machine

/-- REG (R79). -/
inductive Register where
  | cmd
  | status
  | color
  | result
  | stgGamma
  | stgRatio
  | stgCfg
  | fbdata (s : Fin 25)
  deriving DecidableEq, Repr

/-- The byte offset of a register in the window (R52). -/
def Register.offset : Register → Nat
  | .cmd => 0x00
  | .status => 0x04
  | .color => 0x08
  | .result => 0x0C
  | .stgGamma => 0x10
  | .stgRatio => 0x14
  | .stgCfg => 0x18
  | .fbdata s => 0x80 + 4 * s.val

/-- `BusWrite(off, v)`: the word address is `off / 4` (R10, R51). -/
def busWriteAt (off : Nat) (v : Word) : Input := .bus ⟨true, BitVec.ofNat 6 (off / 4), v⟩

/-- `BusRead(off)` (R10, R51). -/
def busReadAt (off : Nat) : Input := .bus ⟨false, BitVec.ofNat 6 (off / 4), 0⟩

/-- The platform address of a register: the window stands at `BASE` (R52). -/
def Register.address (q : Config.Platform) (r : Register) : Nat := q.base + r.offset

/-- The bus transaction of a word access at a platform address: none outside the 256 bytes of the window or off a word
boundary, which no access that reaches the block is (R51, R52). -/
def windowAccess (q : Config.Platform) (write : Bool) (address : Nat) (wdata : Word) : Option Input :=
  if q.base ≤ address ∧ address < q.base + 256 ∧ (address - q.base) % 4 = 0 then
    some (.bus ⟨write, BitVec.ofNat 6 ((address - q.base) / 4), wdata⟩)
  else none

/-- `W REG, value` (R79). -/
def lineW (r : Register) (v : Word) : Input := busWriteAt r.offset v

/-- `R REG` (R79). -/
def lineR (r : Register) : Input := busReadAt r.offset

/-- A mnemonic with its operands: a command is a write of its word to CMD, a bus access is itself (R79). -/
def line (i : Instr) : Input :=
  match encode i with
  | .command w => lineW .cmd w
  | .access pattern wdata => .bus (requestOf pattern wdata)

/-- Nearest integer to `n/d`, ties to even. -/
def roundEven (n d : Nat) : Nat :=
  if 2 * (n % d) < d ∨ (2 * (n % d) = d ∧ n / d % 2 = 0) then n / d else n / d + 1

/-- The smallest `t ≥ start` with `n·2^149/d < 2^(t+24)`, within `fuel`. -/
def scaleOf (n d : Nat) : Nat → Nat → Nat
  | 0, t => t
  | fuel + 1, t => if n * 2 ^ 149 < d * 2 ^ (t + 24) then t else scaleOf n d fuel (t + 1)

/-- `bits32` of the decimal `n/d` or its negative (R80): binary32 rounded to nearest-even. PRESUMED by the spec
itself (assumption 19). -/
def bits32 (negative : Bool) (n d : Nat) : Word :=
  let t := scaleOf n d 255 0
  let magnitude := min (t * 2 ^ 23 + roundEven (n * 2 ^ 149) (d * 2 ^ t)) 0x7F800000
  BitVec.ofNat 32 ((if negative then 2 ^ 31 else 0) + magnitude)

/-- `SETCOLOR r, g, b` (R80). -/
def setColor (r g b : Byte) : Input := lineW .color (Rgb.toWord ⟨r, g, b⟩)

/-- `SETGAMMA f`, with `f = ± n/d` (R80). -/
def setGamma (negative : Bool) (n d : Nat) : Input := lineW .stgGamma (bits32 negative n d)

/-- `SETRATIO f` (R80). -/
def setRatio (negative : Bool) (n d : Nat) : Input := lineW .stgRatio (bits32 negative n d)

/-- `SETCFG t, eg, en, ep` (R80): `t | (eg << 8) | (en << 9) | (ep << 10)`. -/
def setCfg (t : Byte) (eg en ep : Bool) : Input :=
  lineW .stgCfg ((0#21) ++ BitVec.ofBool ep ++ BitVec.ofBool en ++ BitVec.ofBool eg ++ t)

/-- `SYNC` is NOP, the barrier of R61 (R80). -/
def sync : Input := line .nop

/-- `CLRERR` (R80). -/
def clrErr : Input := lineW .status 0x00000008

/-- `RDSLOT s` (R80). -/
def rdSlot (s : Fin 25) : Input := lineR (.fbdata s)

end Sys2Proof.Machine
end

