-- ==== Sys2Proof/Tests/Slice0.lean ====
section
/-! SUPPORT. The model's own tests: what WellFormed refuses, decoding of words written out from the spec's encodings,
one step of each instruction on the spec's own vectors (95_test_vectors.md, named in each comment), and for each
statement with hypotheses a state and operands that meet them. -/

namespace Sys2Proof.Tests

open Sys2Proof.Machine Sys2Proof.Safety

/-! ### WellFormed refuses ill-formed terms -/

theorem test_wf_refuses_reservedOpc_that_is_an_opcode : (Instr.reservedOpc 0x09).wf = false := by decide
theorem test_wf_refuses_fbdata_25 : (Instr.busRFbdata 25).wf = false := by decide
theorem test_wf_refuses_reserved_access_that_is_listed :
    (Instr.busReserved true 0x02).wf = false ∧ (Instr.busReserved false 0x38).wf = false := by decide

/-! ### Decoding: words from R70, R74 and R78, bit by bit -/

theorem test_decode_nop : decodeTableWord 32 0b00000000_00000000_00000000_00000000 = some .nop := by decide
theorem test_decode_init : decodeTableWord 32 0b00000001_00000000_00000000_00000000 = some .init := by decide
theorem test_decode_configure : decodeTableWord 32 0b00000010_00000000_00000000_00000000 = some .configure := by decide
theorem test_decode_preset : decodeTableWord 32 0b00000011_00000000_00000001_00000010 = some (.preset 2) := by decide
theorem test_decode_correct : decodeTableWord 32 0b00000100_11111111_11111111_11111111 = some .correct := by decide
theorem test_decode_decode : decodeTableWord 32 0b00000101_11111111_00000001_00000011 = some (.decode 3 1) := by decide
theorem test_decode_wrpix : decodeTableWord 32 0b00000110_00000000_00000010_00000100 = some (.wrpix 4 2) := by decide
theorem test_decode_wrpixraw : decodeTableWord 32 0b00000111_00000000_00000001_00000011 = some (.wrpixraw 3 1) := by decide
theorem test_decode_wrslotraw : decodeTableWord 32 0b00001000_00000000_00000000_00011000 = some (.wrslotraw 24) := by decide
theorem test_decode_flush : decodeTableWord 32 0b00001001_00000000_00000000_00000000 = some .flush := by decide
theorem test_decode_reservedOpc : decodeTableWord 32 0b00001010_00000000_00000000_00000000 = some (.reservedOpc 0x0A) := by decide
theorem test_decode_busWCmd : decodeTableWord 40 0x05000103_40 = some (.busWCmd 0x05000103) := by decide
theorem test_decode_busRCmd : decodeTableWord 8 0b0000000 = some .busRCmd := by decide
theorem test_decode_busRStatus : decodeTableWord 8 0b0000001 = some .busRStatus := by decide
theorem test_decode_busWStatus : decodeTableWord 8 0b1000001 = some (.busWStatus 0) := by decide
theorem test_decode_busRColor : decodeTableWord 8 0b0000010 = some .busRColor := by decide
theorem test_decode_busWColor : decodeTableWord 40 0x00123456_42 = some (.busWColor 0x00123456) := by decide
theorem test_decode_busRResult : decodeTableWord 8 0b0000011 = some .busRResult := by decide
theorem test_decode_busWStgGamma : decodeTableWord 8 0b1000100 = some (.busWStgGamma 0) := by decide
theorem test_decode_busWStgRatio : decodeTableWord 8 0b1000101 = some (.busWStgRatio 0) := by decide
theorem test_decode_busWStgCfg : decodeTableWord 8 0b1000110 = some (.busWStgCfg 0) := by decide
theorem test_decode_busRStgGamma : decodeTableWord 8 0b0000100 = some .busRStgGamma := by decide
theorem test_decode_busRStgRatio : decodeTableWord 8 0b0000101 = some .busRStgRatio := by decide
theorem test_decode_busRStgCfg : decodeTableWord 8 0b0000110 = some .busRStgCfg := by decide
theorem test_decode_busRFbdata : decodeTableWord 8 0b0111000 = some (.busRFbdata 24) := by decide
theorem test_decode_busReserved : decodeTableWord 8 0b0111001 = some (.busReserved false 57) ∧
    decodeTableWord 8 0b1000011 = some (.busReserved true 3) := by decide
theorem test_decode_refuses_bit7_and_other_lengths :
    decodeTableWord 8 0b10000000 = none ∧ decodeTableWord 16 0 = none := by decide

/-! ### One step of each instruction -/

/-- The state after an instruction. -/
def after (r : Result) : State :=
  match r with
  | .next s => s
  | .fault _ | .refused _ => State.reset

/-- One step on a command word. -/
def runCommand (w : Nat) (s : State) : State := after (step (s.withFetchWord 32 w))

/-- One step on a bus access: pattern and write data. -/
def runAccess (pattern wdata : Nat) (s : State) : State := after (step (s.withFetchWord 40 (pattern + 256 * wdata)))

/-- Reset, then a colour in COLOR. -/
def withColor (r g b : Byte) : State := { State.reset with color := ⟨r, g, b⟩ }

/-- What the last read returned. -/
def lastRead (s : State) : Option Word := s.reads.getLast?

/-- V-EN-3. -/
theorem test_nop : statusWord (runCommand 0x00FFFFFF State.reset) = 0 := by decide
/-- V-TX-2. -/
theorem test_init : (runCommand 0x01000000 (withColor 1 2 3)).trace = [.frame (List.replicate 600 false), .latch] ∧
    statusWord (runCommand 0x01000000 State.reset) = 0x00000002 := by decide +kernel
/-- V-CF-7, V-CF-8. -/
theorem test_configure : statusWord (runCommand 0x02000000 State.reset) = 0x00000004 ∧
    statusWord (runCommand 0x02000000 { State.reset with stgGamma := 0 }) = 0x00000028 := by decide
/-- V-CF-16, V-CF-17. -/
theorem test_configure_gamma_off :
    statusWord (runCommand 0x02000000 { State.reset with stgCfg := 0x60F, lutValid := true }) = 0x00000004 ∧
    statusWord (runCommand 0x02000000 { State.reset with stgGamma := 0x3F800000, stgCfg := 0x60F, lutValid := true }) = 0 := by
  decide
/-- V-CF-3, V-CF-4. -/
theorem test_preset : statusWord (runCommand 0x03000000 { State.reset with lutValid := true }) = 0 ∧
    statusWord (runCommand 0x03000005 State.reset) = 0x00000038 := by decide
/-- R103, mode 3. -/
theorem test_preset_row : (runCommand 0x03000003 State.reset).cfg = ⟨0x40200000, 25, 0x41200000, true, true, true⟩ := by decide
/-- V-CC-16, V-CC-13. -/
theorem test_correct : (runCommand 0x04000000 (withColor 250 62 20)).result = 0x00F40000 ∧
    (runCommand 0x04000000 (withColor 200 14 30)).result = 0x00950002 := by decide
/-- V-CC-10, both values of the parameter. -/
theorem test_correct_blue_maximum : (runCommand 0x04000000 (withColor 20 20 250)).result = 0x000000F4 ∧
    (runCommand 0x04000000 { withColor 20 20 250 with params := ⟨false, 1250, 400, 800, 300000⟩ }).result = 0x000101F4 := by
  decide
/-- V-AD-1, V-AD-2. -/
theorem test_decode : (runCommand 0x05000103 State.reset).result = 0x80000012 ∧
    (runCommand 0x05000005 State.reset).result = 0x0000001F := by decide
/-- V-FB-4. -/
theorem test_wrpix : fbWord (runCommand 0x06000000 (withColor 100 50 25)).fb 24 = 0x00072102 ∧
    (runCommand 0x06000000 (withColor 100 50 25)).lutValid = true := by decide
/-- V-FB-5. -/
theorem test_wrpix_invalid : (runCommand 0x06000005 (withColor 100 50 25)).fb = blackFrame ∧
    (runCommand 0x06000005 (withColor 100 50 25)).lutValid = false := by decide
/-- V-FB-7. -/
theorem test_wrpixraw : fbWord (runCommand 0x07000103 (withColor 0x12 0x34 0x56)).fb 18 = 0x00341256 := by decide
/-- V-FB-2, V-FB-3. -/
theorem test_wrslotraw : fbWord (runCommand 0x08000018 (withColor 0 0 1)).fb 24 = 0x00000001 ∧
    (runCommand 0x08000019 (withColor 255 255 255)).fb = blackFrame := by decide
/-- V-TX-1. -/
theorem test_flush_before_init : statusWord (runCommand 0x09000000 State.reset) = 0x00000048 ∧
    (runCommand 0x09000000 State.reset).trace = [] := by decide
/-- V-TX-7: the first slot's bits, and the rest zero. -/
theorem test_flush :
    (runCommand 0x09000000 { runCommand 0x08000000 (withColor 0x80 0x00 0x01) with txEn := true }).trace =
      [.frame (List.replicate 8 false ++ (true :: List.replicate 7 false) ++ (List.replicate 7 false ++ [true]) ++
        List.replicate 576 false), .latch] := by decide +kernel
/-- V-EN-2, V-CF-18. -/
theorem test_reservedOpc : statusWord (runCommand 0xFF123456 State.reset) = 0x00000018 ∧
    statusWord (runCommand 0x0A000000 (runCommand 0x03000007 State.reset)) = 0x00000038 := by decide
/-- R57: accepted, then held. -/
theorem test_busWCmd : statusWord (runAccess 0x40 0x09000000 State.reset) = 0x00000001 ∧
    (runAccess 0x40 0x01000000 (runAccess 0x40 0x09000000 State.reset)).held = some 0x01000000 := by decide
/-- V-EN-5. -/
theorem test_busR_write_only : lastRead (runAccess 0x00 0 State.reset) = some 0 ∧
    lastRead (runAccess 0x04 0 State.reset) = some 0 ∧ lastRead (runAccess 0x05 0 State.reset) = some 0 ∧
    lastRead (runAccess 0x06 0 State.reset) = some 0 := by decide
/-- V-EN-1: STATUS after a reserved opcode. -/
theorem test_busRStatus : lastRead (runAccess 0x01 0 (runCommand 0x0A000000 State.reset)) = some 0x00000018 := by decide
/-- V-CF-19, V-CF-20. -/
theorem test_busWStatus : statusWord (runAccess 0x41 0x00000008 (runCommand 0x03000007 State.reset)) = 0 ∧
    statusWord (runAccess 0x41 0x000000F7 (runCommand 0x03000007 State.reset)) = 0x00000038 := by decide
/-- V-EN-6. -/
theorem test_bus_color : lastRead (runAccess 0x02 0 (runAccess 0x42 0xFF123456 State.reset)) = some 0x00123456 := by decide
/-- R26. -/
theorem test_busRResult : lastRead (runAccess 0x03 0 (runCommand 0x05000103 State.reset)) = some 0x80000012 := by decide
/-- R27, V-CF-15. -/
theorem test_busW_staging : (runAccess 0x44 0x40200000 State.reset).stgGamma = 0x40200000 ∧
    (runAccess 0x45 0x40200000 State.reset).stgRatio = 0x40200000 ∧
    (runAccess 0x46 0xFFFFFFFF State.reset).stgCfg = 0x7FF := by decide
/-- V-FB-1. -/
theorem test_busRFbdata :
    lastRead (runAccess 0x20 0 (runCommand 0x08000000 (withColor 255 0 0))) = some 0x0000FF00 := by decide
/-- V-EN-7, V-EN-5. -/
theorem test_busReserved : (runAccess 0x43 0xFFFFFFFF State.reset).result = 0 ∧
    lastRead (runAccess 0x39 0 State.reset) = some 0 := by decide

/-- V-LUT-4, V-LUT-5, V-LUT-6: entries of tables that are computed. -/
theorem test_gammaTable_extremes : (gammaTable 0x3F800000)[137] = 137 ∧ (gammaTable 0x7F7FFFFF)[254] = 0 ∧
    (gammaTable 0x7F7FFFFF)[255] = 255 ∧ (gammaTable 0x00000001)[0] = 0 ∧ (gammaTable 0x00000001)[1] = 255 := by
  decide +kernel
/-- R80: SETGAMMA 2.2 and 2.8; SETCFG 15, 0, 1, 1 of program P4. -/
theorem test_assembler : setGamma false 22 10 = .bus ⟨true, 4, 0x400CCCCD⟩ ∧
    setGamma false 28 10 = .bus ⟨true, 4, 0x40333333⟩ ∧ setCfg 15 false true true = .bus ⟨true, 6, 0x0000060F⟩ ∧
    line (.decode 3 1) = .bus ⟨true, 0, 0x05000103⟩ ∧ rdSlot 18 = .bus ⟨false, 50, 0⟩ := by decide +kernel
/-- R52: FBDATA[24] at BASE + 0xE0, and no access past the window. -/
theorem test_windowAccess : windowAccess ⟨1, 1, 1, 0x40000000⟩ false 0x400000E0 0 = some (rdSlot 24) ∧
    (Register.fbdata 24).address ⟨1, 1, 1, 0x40000000⟩ = 0x400000E0 ∧
    windowAccess ⟨1, 1, 1, 0x40000000⟩ false 0x40000100 0 = none ∧
    windowAccess ⟨1, 1, 1, 0x40000000⟩ false 0x40000001 0 = none := by decide
/-- R12: -2, the smallest subnormal, and the smallest normal; the ratio test against -2. -/
theorem test_bin32 : bin32Scaled 0xC0000000 = -(2 * 2 ^ 149) ∧ bin32Scaled 0x00000001 = 1 ∧
    bin32Scaled 0x00800000 = 2 ^ 23 ∧ ratioExceeds 0xC0000000 1 1 = true ∧ ratioExceeds 0x40000000 2 1 = false := by decide
/-- R250: a FLUSH and an INIT. -/
theorem test_busyTime : busyTime .flush { State.reset with txEn := true } = some ⟨1, 0, 600, 1⟩ ∧
    busyTime .init State.reset = some ⟨1, 0, 600, 2⟩ ∧ busyTime .correct State.reset = some ⟨1, 1, 0, 0⟩ := by decide

/-- R177, R8: at 8 MHz with L_CMD = 8 a FLUSH takes 1 µs + 750 µs + 300 µs; R173: T_BIT is then 10 cycles. -/
theorem test_busyNanoseconds :
    busyNanoseconds ⟨8000000, 8, 1, 0⟩ .flush { State.reset with txEn := true } = some 1051000 ∧
    waveformCycles (fun t => ⌊t⌋.toNat) ⟨8000000, 8, 1, 0⟩ [(true, 1250)] = [(true, 10)] := by decide +kernel

/-! ### The hypotheses of the statements can be met -/

/-- A command in progress, with the operands latched from reset and the environment's moves given. -/
def inProgress (w : Word) (moves : List Input) : State :=
  { State.reset with pending := some (latchOperands w State.reset), inputs := moves }

/-- A FLUSH in progress with the output enabled. -/
def flushing : State := { inProgress 0x09000000 [] with txEn := true }

/-- A command other than a FLUSH just accepted, in the invariant of `StepKeepsTheInvariant`. -/
theorem witness_stepKeepsTheInvariant : Inv (inProgress 0x03000002 []) ∧
    ∃ t, step (inProgress 0x03000002 []) = .next t :=
  ⟨{ legalGamma := by decide, legalRatio := by decide, lutFresh := nofun, errCode := by decide,
     knownCode := by decide, txOwned := fun h => absurd rfl h, leadIsInit := nofun,
     lineLow := nofun, inReset := nofun }, ⟨_, rfl⟩⟩

theorem witness_decodeOfEncode : (Instr.reservedOpc 0x0A).wf = true ∧ (Instr.reservedOpc 0xFF).wf = true ∧
    (Instr.busRFbdata 24).wf = true ∧ (Instr.busReserved true 3).wf = true ∧ (Instr.busReserved true 63).wf = true ∧
    (Instr.busReserved false 7).wf = true ∧ (Instr.busReserved false 31).wf = true ∧
    (Instr.busReserved false 57).wf = true := by decide

theorem witness_reservedCommandBits : (0x03000002 : Word) >>> 24 = 3 ∧ (0x08000018 : Word) >>> 24 = 8 ∧
    (0x00000000 : Word) >>> 24 = 0 ∧ (0x01000000 : Word) >>> 24 = 1 ∧ (0x02000000 : Word) >>> 24 = 2 ∧
    (0x04000000 : Word) >>> 24 = 4 ∧ 9 ≤ (0x09000000 : Word) >>> 24 ∧ 9 ≤ (0xFF000000 : Word) >>> 24 := by decide

theorem witness_engineMove : (inProgress 0x05000103 [.engine]).rst = false ∧
    (inProgress 0x05000103 [.engine]).pending = some (latchOperands 0x05000103 State.reset) ∧
    decode (.command 0x05000103) = .ok (.decode 3 1) ∧ (inProgress 0x05000103 []).inputs = [] ∧
    { inProgress 0x05000103 [.bus ⟨false, 1, 0⟩] with held := some 0 }.held ≠ none := by decide

theorem witness_transmitterMove : { flushing with inputs := [.tx] }.pending = some (latchOperands 0x09000000 State.reset) ∧
    { flushing with inputs := [.tx] }.txPhase ≠ .latch ∧ { flushing with txPhase := .latch }.txPhase = .latch ∧
    (txSource { flushing with txPhase := .latch }).isSome = true := by decide

theorem witness_busTransaction : { State.reset with inputs := [.bus ⟨false, 1, 0⟩] }.held = none ∧
    decode (.access (patternByte false 1) 0) = .ok .busRStatus := by decide

/-- `NoStepChangesTheParameters`, `OnlyTheNamedInstructionsWrite`, `BusAccessesLeaveCommandEffectsAlone`. -/
theorem witness_next_states : (∃ t, step State.reset = .next t) ∧ (∃ t, exec .correct State.reset = .next t) ∧
    ∃ t, exec (decodeRequest true 2 0) State.reset = .next t := ⟨⟨_, rfl⟩, ⟨_, rfl⟩, ⟨_, rfl⟩⟩

theorem witness_rstInput : { inProgress 0x09000000 [.rst true, .engine] with held := some 0 }.inputs
    = .rst true :: [.engine] := rfl

theorem witness_inReset : (resetBlock State.reset).rst = true := rfl

/-- Every register-window statement: `rst` = 0, with and without a command in progress, and with one held. -/
theorem witness_window : State.reset.rst = false ∧ State.reset.pending = none ∧ (inProgress 0 []).rst = false ∧
    (inProgress 0 []).pending ≠ none ∧
    ({ State.reset with held := some 0x09000000, inputs := [.bus ⟨false, 1, 0⟩] } : State).held = some 0x09000000 := by
  decide

/-- `ReservedAndWrongDirectionAccesses`: the ends of the reserved ranges; `ResultAndSlotReads`: slots 24 and 25. -/
theorem witness_reservedAddresses : (7 ≤ (7 : BitVec 6).toNat ∧ (31 : BitVec 6).toNat < 32) ∧
    57 ≤ (57 : BitVec 6).toNat ∧ 57 ≤ (63 : BitVec 6).toNat ∧ (3 : BitVec 6).toNat = 3 ∧
    (24 : BitVec 5).toNat < 25 ∧ 25 ≤ (25 : BitVec 5).toNat ∧ 25 ≤ (31 : BitVec 5).toNat := by decide

/-- `StatusWriteClearsTheErrorRecord`: both clauses. -/
theorem witness_statusWrite : (0x00000008 : Word).toNat / 8 % 2 = 1 ∧ (0x000000F7 : Word).toNat / 8 % 2 = 0 := by decide

theorem witness_registerWritesDuringCommand : (inProgress 0x04000000 []).pending =
    some (latchOperands 0x04000000 State.reset) ∧
    ∃ t, exec (decodeCommand 0x04000000) (inProgress 0x04000000 []) = .next t := ⟨rfl, ⟨_, rfl⟩⟩

/-- `ErringCommandOnlyRecordsTheFirstError`: each of the four causes, at its boundary. -/
theorem witness_erring : isFinitePos (operands { State.reset with stgGamma := 0x7F800000 }).stgGamma = false ∧
    isFinitePos (operands { State.reset with stgRatio := 0x80000000 }).stgRatio = false ∧ 4 < (5 : Byte).toNat ∧
    State.reset.txEn = false := by decide

/-- `ConfigureInstallsTheStagedConfiguration`: the reset staging, and the largest finite value. -/
theorem witness_configure : (inProgress 0x02000000 []).pending = some (latchOperands 0x02000000 State.reset) ∧
    isFinitePos (latchOperands 0x02000000 State.reset).stgGamma = true ∧
    isFinitePos (latchOperands 0x02000000 State.reset).stgRatio = true ∧ isFinitePos 0x7F7FFFFF = true ∧
    isFinitePos 0x00000001 = true := by decide

/-- The same statement, a command in progress whose staged gamma is +∞. -/
theorem witness_configure_illegal : ({ inProgress 0x02000000 [] with
      pending := some { latchOperands 0x02000000 State.reset with stgGamma := 0x7F800000 } } : State).pending =
    some ⟨0x02000000, ⟨0, 0, 0⟩, 0x7F800000, 0x41000000, 0x70F⟩ ∧ isFinitePos 0x7F800000 = false := by decide

theorem witness_preset : 1 ≤ (1 : Byte).toNat ∧ (4 : Byte).toNat ≤ 4 ∧ 4 < (5 : Byte).toNat := by decide

/-- `NopOnlyCompletes`: the last NOP word. -/
theorem witness_nop : (0x00FFFFFF : Word).toNat < 0x01000000 := by decide

/-- `CorrectWritesTheCorrectedColor`, `WrpixWritesTheCorrectedPixel`, and the raw writes: a command in progress, no valid
LUT, the far corner and the last slot. -/
theorem witness_pixel_writes : (inProgress 0x06000404 []).pending = some (latchOperands 0x06000404 State.reset) ∧
    (inProgress 0x06000404 []).lutValid = false ∧ (4 : Byte).toNat < 5 ∧ isValid 4 4 = true ∧ (24 : Byte).toNat < 25 ∧
    (inProgress 0x06000404 []).rst = false := by decide

/-- The same with a LUT that is valid. -/
theorem witness_fresh_lut : { State.reset with lutValid := true, lut := gammaTable 0x400CCCCD }.lut
    = gammaTable State.reset.cfg.gamma := rfl

/-- The three pixel writes and `DecodeCommandGivesTheSlot`: each coordinate just outside, the slot just outside. -/
theorem witness_outOfRange : (5 ≤ (5 : Byte).toNat ∨ 5 ≤ (0 : Byte).toNat) ∧ (5 ≤ (0 : Byte).toNat ∨ 5 ≤ (5 : Byte).toNat) ∧
    25 ≤ (25 : Byte).toNat ∧ ((4 : Byte).toNat < 5 ∧ (0 : Byte).toNat < 5) := by decide

theorem witness_rawRoundTrip : ∃ t, exec (.wrpixraw 3 1) (inProgress 0x07000103 []) = .next t := ⟨_, rfl⟩

theorem witness_gamma : isFinitePos 0x400CCCCD = true ∧ isFinitePos 0x3F800000 = true ∧ 255 < 256 := by decide

theorem witness_ratio : 0 < 1 := by decide

theorem witness_staleLut : SameButStaleLut State.reset { State.reset with lut := Vector.replicate 256 1 } := ⟨rfl, rfl⟩

theorem witness_index : isValid 0 0 = true ∧ isValid 4 4 = true ∧ 24 < 25 := by decide

/-- `FlushSendsTheFrameBuffer`, `FlushSendsEveryBitBackToBack`, `LineEventsFoldIntoTheCommand`. -/
theorem witness_flush : flushing.pending = some (latchOperands 0x09000000 State.reset) ∧
    decodeCommand 0x09000000 = .flush ∧ flushing.txEn = true ∧ flushing.txPhase = .idle := by decide

theorem witness_waveform : Config.Params.standard.wf := by decide

theorem witness_leds : (∃ t, exec .flush flushing = .next t) ∧ Instr.correct ≠ .flush ∧ Instr.correct ≠ .init ∧
    ∃ t, exec .correct flushing = .next t := ⟨⟨_, rfl⟩, by decide, by decide, ⟨_, rfl⟩⟩

theorem witness_lineEventsAndReads : (∃ t, exec (decodeRequest false 1 0) flushing = .next t) ∧
    ∃ u, exec (decodeRequest false 1 0) (txAdvance flushing) = .next u := ⟨⟨_, rfl⟩, ⟨_, rfl⟩⟩

/-- `HeldCmdWriteIsAcceptedAfterBusyFalls`: the engine's own scheduled move, and a waiting transaction. -/
theorem witness_heldAccepted (moves : List Input) :
    let s : State := { State.reset with held := some 0x09000000, inputs := moves }
    s.rst = false ∧ s.held = some 0x09000000 ∧ s.pending = none ∧ s.inputs = moves := ⟨rfl, rfl, rfl, rfl⟩

/-- `Bin32IsTheBinary32Value`: a negative subnormal, and finite words with an exponent field other than 0. -/
theorem witness_bin32 : isFinite 0x80000001 = true ∧ (0x80000001 : Word).toNat / 2 ^ 23 % 256 = 0 ∧
    isFinite 0xC0000000 = true ∧ (0xC0000000 : Word).toNat / 2 ^ 23 % 256 ≠ 0 ∧ isFinite 0x7F7FFFFF = true ∧
    isFinite 0xFF800000 = false := by decide

/-- `OutputEnableIsTxEn` and the last clause of `LedsChangeOnlyAtALatch`: a first INIT completes; a reset. -/
theorem witness_outputEnable :
    doutOe (after (step (inProgress 0x01000000 []))) ≠ doutOe (inProgress 0x01000000 []) ∧
    shown (after (step (inProgress 0x01000000 []))).trace ≠ shown (inProgress 0x01000000 []).trace ∧
    doutOe (after (step { flushing with inputs := [.rst true] })) ≠ doutOe flushing := by decide +kernel

theorem witness_gammaStage : CorrConfig.default.enGamma = true ∧
    ({ CorrConfig.default with enGamma := false } : CorrConfig).enGamma = false := by decide

/-- `RstReleaseAndHoldChangeNothingElse`: in reset, with each of the moves named. -/
theorem witness_rstHold (moves : List Input) :
    let s : State := { resetBlock State.reset with inputs := moves }
    s.rst = true ∧ s.inputs = moves := ⟨rfl, rfl⟩

theorem witness_initLine : (inProgress 0x01000000 []).pending = some (latchOperands 0x01000000 State.reset) ∧
    decodeCommand 0x01000000 = .init ∧ (inProgress 0x01000000 []).txPhase = .idle := by decide

/-- `BusyLastsForTheTimesOfTheParameters`: each clause of it. -/
theorem witness_busyLasts : Config.Platform.wf ⟨8000000, 1, 1, 0⟩ ∧
    isFinitePos (operands State.reset).stgGamma = true ∧ isFinitePos (operands State.reset).stgRatio = true ∧
    (∃ t, exec .configure State.reset = .next t) ∧ (∃ t, exec (.preset 4) State.reset = .next t) ∧
    (4 : Byte).toNat ≤ 4 ∧ 4 < (5 : Byte).toNat ∧ flushing.txEn = true ∧ State.reset.txEn = false ∧
    isFinitePos (operands { State.reset with stgGamma := 0 }).stgGamma = false :=
  ⟨by decide, by decide, by decide, ⟨_, rfl⟩, ⟨_, rfl⟩, by decide, by decide, by decide, by decide, by decide⟩

/-! ### The transmitter's line events -/

/-- R180: INIT begins with LEAD, the line low for T_LATCH, and then the first bit. -/
theorem test_init_lead : (txAdvance (inProgress 0x01000000 [])).txPhase = .lead ∧
    (txAdvance (txAdvance (inProgress 0x01000000 []))).txPhase = .data ∧
    lineHold (txAdvance (inProgress 0x01000000 [])) = some 300000 := by decide

/-- V-RS-3: a reset during a frame leaves no Frame in the trace, and BUSY and TX_EN at 0. -/
theorem test_reset_cuts_a_frame :
    statusWord (after (step { txAdvance flushing with inputs := [.rst true] })) = 0 ∧
    (after (step { txAdvance flushing with inputs := [.rst true] })).trace = [] ∧
    (after (step { txAdvance flushing with inputs := [.rst true] })).dout = false := by decide

end Sys2Proof.Tests
end

/-! PROOFS of the statements about the scope of the model: what stays fixed (R8), the binary32 reading (R12), and how
long a command takes (R250). -/

namespace Sys2Proof.Proofs

open Sys2Proof.Machine Sys2Proof.Laws

/-! ### The parameters are fixed (R8) -/

section Parameters

variable {s t : State}

theorem raise_keeps_params {e : CmdError} (h : raise e s = .next t) : t.params = s.params := by
  rw [raise_eq] at h; cases h; rfl

theorem busRead_keeps_params {v : Word} (h : busRead v s = .next t) : t.params = s.params := by
  cases h; rfl

/-- A bus write changes the parameters only if its effect does. -/
theorem busWrite_keeps_params {f : State → State} (hf : (f s).params = s.params) (h : busWrite f s = .next t) :
    t.params = s.params := by
  cases h
  split
  · rfl
  · exact hf

/-- No instruction changes the parameters. -/
theorem exec_keeps_params {i : Instr} (h : exec i s = .next t) : t.params = s.params := by
  cases i with
  | nop => cases h; rfl
  | init => cases h; rfl
  | configure =>
    dsimp only [exec, execConfigure] at h
    split at h
    · cases h; simp
    · exact raise_keeps_params h
  | preset mode =>
    dsimp only [exec, execPreset] at h
    split at h
    · cases h; simp
    · exact raise_keeps_params h
  | correct => cases h; simp
  | decode x y => cases h; rfl
  | wrpix x y =>
    dsimp only [exec, execWrpix] at h
    split at h <;> cases h <;> simp
  | wrpixraw x y =>
    dsimp only [exec, execWrpixraw] at h
    split at h <;> cases h <;> rfl
  | wrslotraw slot =>
    dsimp only [exec, execWrslotraw] at h
    split at h <;> cases h <;> rfl
  | flush =>
    dsimp only [exec, execFlush] at h
    split at h
    · cases h; rfl
    · exact raise_keeps_params h
  | reservedOpc opc => exact raise_keeps_params h
  | busWCmd d =>
    dsimp only [exec, execBusWCmd] at h
    exact busWrite_keeps_params (by split <;> rfl) h
  | busWStatus d => exact busWrite_keeps_params (writeStatus_params s d) h
  | busWColor d | busWStgGamma d | busWStgRatio d | busWStgCfg d =>
    dsimp only [exec, execBusWColor, execBusWStgGamma, execBusWStgRatio, execBusWStgCfg] at h
    exact busWrite_keeps_params rfl h
  | busRCmd | busRStatus | busRColor | busRResult | busRStgGamma | busRStgRatio | busRStgCfg | busRFbdata n =>
    exact busRead_keeps_params h
  | busReserved w a =>
    cases w
    · exact busRead_keeps_params h
    · exact busWrite_keeps_params rfl h

theorem engineStep_keeps_params (h : engineStep s = .next t) : t.params = s.params := by
  unfold engineStep at h
  split at h
  · cases h; rfl
  · split at h
    · exact exec_keeps_params h
    · split at h
      · exact (exec_keeps_params h :)
      · cases h; rfl

theorem txStep_keeps_params (h : txStep s = .next t) : t.params = s.params := by
  unfold txStep at h
  split at h
  · cases h; rfl
  · split at h
    · exact engineStep_keeps_params h
    · cases h; exact txAdvance_params s

theorem driveRst_params (level : Bool) (s : State) : (driveRst level s).params = s.params := by
  cases level <;> rfl

theorem inputStep_keeps_params {i : Input} {rest : List Input} (h : inputStep i rest s = .next t) :
    t.params = s.params := by
  cases i with
  | bus request =>
    dsimp only [inputStep] at h
    split at h
    · exact engineStep_keeps_params h
    · exact (exec_keeps_params h :)
  | engine => exact engineStep_keeps_params (s := { s with inputs := rest }) h
  | tx => exact txStep_keeps_params (s := { s with inputs := rest }) h
  | rst level => cases h; exact driveRst_params level _

/-- Settles O9: the engine, the transmitter, the host and `rst` each keep the parameters. -/
theorem noStepChangesTheParameters : Obligations.NoStepChangesTheParameters := by
  intro s t h
  unfold step at h
  split at h
  · exact engineStep_keeps_params h
  · exact inputStep_keeps_params h

end Parameters

/-! ### The fields of a binary32 word, as numbers (R12) -/

/-- The exponent field. -/
theorem expField_eq (w : Word) : expField w = w.toNat / 2 ^ 23 % 256 := by
  rw [expField, BitVec.extractLsb'_toNat, Nat.shiftRight_eq_div_pow]

/-- The fraction field. -/
theorem fracField_eq (w : Word) : fracField w = w.toNat % 2 ^ 23 := by
  rw [fracField, BitVec.extractLsb'_toNat, Nat.shiftRight_zero]

/-- The sign bit. -/
theorem signBit_iff (w : Word) : w.getLsbD 31 = true ↔ 2 ^ 31 ≤ w.toNat :=
  (BitVec.msb_eq_getLsbD_last w) ▸ BitVec.msb_eq_true_iff_two_mul_ge.trans (by omega)

/-- All bits below the sign are 0. -/
theorem low31_eq_zero_iff (w : Word) : w.extractLsb' 0 31 = 0 ↔ w.toNat % 2 ^ 31 = 0 := by
  rw [← BitVec.toNat_inj, BitVec.extractLsb'_toNat, Nat.shiftRight_zero]; rfl

/-- Settles O26: the three tests on fields, read as numbers, bound the word. -/
theorem finitePositiveWords : Obligations.FinitePositiveWords := by
  intro w
  have hw : w.toNat < 2 ^ 32 := w.isLt
  have fields : isFinitePos w = true ↔
      ¬ 2 ^ 31 ≤ w.toNat ∧ w.toNat / 2 ^ 23 % 256 ≠ 255 ∧ w.toNat % 2 ^ 31 ≠ 0 := by
    simp only [isFinitePos, Bool.and_eq_true, Bool.not_eq_true', bne_iff_ne, ne_eq, ← Bool.not_eq_true, signBit_iff,
      expField_eq, low31_eq_zero_iff, and_assoc]
  rw [fields]
  omega

/-- `bin32` as sign, significand and scale. -/
theorem bin32_eq (w : Word) :
    bin32 w = (if 2 ^ 31 ≤ w.toNat then -1 else 1) * ((significand w : ℚ) * 2 ^ (biasedExp w - 1) / 2 ^ 149) := by
  simp only [bin32, bin32Scaled, bin32Magnitude, signBit_iff]
  split <;> push_cast <;> ring

/-- The scale of an integer significand under the exponent field `k + 1`, as a scale of the fraction `f / 2^23`. -/
theorem scale_eq (k : Nat) : (2 : ℚ) ^ k / 2 ^ 149 = 2 ^ ((k : ℤ) - 126) / 2 ^ 23 := by
  rw [zpow_sub₀ two_ne_zero, zpow_natCast]
  norm_num [div_div]

theorem isFinite_iff (w : Word) : isFinite w = true ↔ w.toNat / 2 ^ 23 % 256 ≠ 255 := by
  simp only [isFinite, bne_iff_ne, expField_eq, ne_eq]

/-- The value of a subnormal or a zero. -/
theorem bin32_subnormal {w : Word} (h : expField w = 0) :
    bin32 w = (if 2 ^ 31 ≤ w.toNat then -1 else 1) * (fracField w / 2 ^ 23) * 2 ^ (-126 : ℤ) := by
  have hb : biasedExp w - 1 = 0 := by rw [biasedExp, h]; rfl
  rw [bin32_eq, significand, if_pos h, hb, mul_div_assoc, scale_eq, Nat.cast_zero, zero_sub]
  ring

/-- The value of a normal word. -/
theorem bin32_normal {w : Word} (h : expField w ≠ 0) :
    bin32 w = (if 2 ^ 31 ≤ w.toNat then -1 else 1) * (1 + fracField w / 2 ^ 23) * 2 ^ ((expField w : ℤ) - 127) := by
  obtain ⟨k, hk⟩ := Nat.exists_eq_succ_of_ne_zero h
  have hb : biasedExp w - 1 = k := by unfold biasedExp; omega
  have he : (expField w : ℤ) - 127 = k - 126 := by omega
  rw [bin32_eq, significand, if_neg h, hb, he, mul_div_assoc, scale_eq]
  push_cast
  ring

/-- Settles O55: the fields of the word, as numbers, in the two exponent cases. -/
theorem bin32IsTheBinary32Value : Obligations.Bin32IsTheBinary32Value := by
  intro w
  refine ⟨isFinite_iff w, fun _ he => ?_, fun _ he => ?_⟩ <;> rw [← expField_eq] at he
  · rw [bin32_subnormal he, fracField_eq]
  · rw [bin32_normal he, fracField_eq, expField_eq]

/-! ### BUSY times (R250) -/

section Busy

variable (q : Config.Platform) (s : State)

/-- `n` cycles of the clock, in nanoseconds. -/
def cycleTime (n : Nat) : ℚ := n * 10 ^ 9 / q.fClk

/-- A command that sends no frame takes `L_CMD`, and `L_LUT` more when it builds the table. -/
theorem nanoseconds_lutTime (p : Config.Params) (builds : Bool) :
    (lutTime builds).nanoseconds q p = cycleTime q (q.lCmd + if builds then q.lLut else 0) := by
  cases builds <;> simp [Duration.nanoseconds, lutTime, cycleTime, mul_div_assoc]

theorem busyNanoseconds_of_lutTime {i : Instr} {builds : Bool} (h : busyTime i s = some (lutTime builds)) :
    busyNanoseconds q i s = some (cycleTime q (q.lCmd + if builds then q.lLut else 0)) := by
  rw [busyNanoseconds, h, Option.map_some, nanoseconds_lutTime]

/-- The build bit of a command that runs the lazy build, as the table's condition. -/
theorem lazyBuildTime_eq (l : Nat) :
    (if (s.cfg.enGamma && !s.lutValid) = true then l else 0) =
      if s.cfg.enGamma = true ∧ s.lutValid = false then l else 0 := by
  simp only [Bool.and_eq_true, Bool.not_eq_true']

/-- The one frame of a FLUSH, and the latch period after it. -/
theorem nanoseconds_frame (p : Config.Params) :
    Duration.nanoseconds q p ⟨1, 0, 600, 1⟩ = cycleTime q q.lCmd + (600 * p.tBit + p.tLatch) := by
  simp only [Duration.nanoseconds, cycleTime]
  push_cast
  ring

/-- INIT's LEAD before the same frame. -/
theorem nanoseconds_leadAndFrame (p : Config.Params) :
    Duration.nanoseconds q p ⟨1, 0, 600, 2⟩ = cycleTime q q.lCmd + p.tLatch + (600 * p.tBit + p.tLatch) := by
  simp only [Duration.nanoseconds, cycleTime]
  push_cast
  ring

variable {s t : State}

/-- CONFIGURE with legal floats leaves the latched EN_GAMMA in CFG (R27, R100). -/
theorem execConfigure_enGamma (hg : isFinitePos (operands s).stgGamma = true)
    (hr : isFinitePos (operands s).stgRatio = true) (h : exec .configure s = .next t) :
    t.cfg.enGamma = (operands s).stgCfg.getLsbD 8 := by
  simp only [exec, execConfigure, hg, hr, Bool.and_self, if_true] at h
  cases h
  rw [complete_cfg, commitLut_cfg]
  rfl

/-- The modes with a row of PRESET_TABLE (R103). -/
theorem presetTable_of_le {mode : Nat} (h : mode ≤ 4) : ∃ row, presetTable mode = some row := by
  interval_cases mode <;> exact ⟨_, rfl⟩

/-- The modes without one (R102). -/
theorem presetTable_of_gt : ∀ {mode : Nat}, 4 < mode → presetTable mode = none
  | _ + 5, _ => rfl

/-- PRESET installs its row of the table (R102). -/
theorem execPreset_cfg {mode : Byte} {row : CorrConfig} (hrow : presetTable mode.toNat = some row)
    (h : exec (.preset mode) s = .next t) : t.cfg = row := by
  simp only [exec, execPreset, hrow] at h
  cases h
  rw [complete_cfg, commitLut_cfg]

/-- A bus access is no command. -/
theorem busyTime_decodeRequest (write : Bool) (addr : BitVec 6) (d : Word) :
    busyTime (decodeRequest write addr d) s = none := by
  unfold decodeRequest
  repeat' split
  all_goals rfl

/-- WRPIX runs the lazy build only with valid coordinates (R145). -/
theorem busyNanoseconds_wrpix (x y : Byte) : busyNanoseconds q (.wrpix x y) s = some (cycleTime q (q.lCmd +
    if isValid x y = true then (if s.cfg.enGamma = true ∧ s.lutValid = false then q.lLut else 0) else 0)) := by
  rw [busyNanoseconds_of_lutTime q s rfl, ← lazyBuildTime_eq]
  cases isValid x y <;> rfl

/-- Settles O60: R250's table, row by row. -/
theorem busyLastsForTheTimesOfTheParameters : Obligations.BusyLastsForTheTimesOfTheParameters := by
  intro q s _
  refine ⟨fun x y slot opc => ⟨?_, ?_, ?_, ?_, ?_, busyNanoseconds_wrpix q x y⟩, ?correct, ?configure, ?illegal,
    ?preset, ?noRow, ?flush, ?flushOff, ?init, ?bus⟩
  iterate 5 exact busyNanoseconds_of_lutTime q s (builds := false) rfl
  case correct => exact lazyBuildTime_eq s _ ▸ busyNanoseconds_of_lutTime q s rfl
  case configure =>
    intro t h hg hr
    rw [execConfigure_enGamma hg hr h]
    apply busyNanoseconds_of_lutTime q s
    simp only [busyTime, hg, hr, Bool.true_and]
  case illegal =>
    intro h
    apply busyNanoseconds_of_lutTime q s (builds := false)
    rcases h with h | h <;> simp [busyTime, h]
  case preset =>
    intro mode t h hm
    obtain ⟨row, hrow⟩ := presetTable_of_le hm
    rw [execPreset_cfg hrow h]
    apply busyNanoseconds_of_lutTime q s
    simp only [busyTime, hrow, Option.map_some, Option.getD_some]
  case noRow =>
    intro mode hm
    apply busyNanoseconds_of_lutTime q s (builds := false)
    simp only [busyTime, presetTable_of_gt hm, Option.map_none, Option.getD_none]
  case flush =>
    intro h
    simp only [busyNanoseconds, busyTime, h, if_true, Option.map_some, nanoseconds_frame]
    rfl
  case flushOff =>
    intro h
    exact busyNanoseconds_of_lutTime q s (builds := false) (by simp [busyTime, h])
  case init => exact congrArg some (nanoseconds_leadAndFrame q s.params)
  case bus =>
    intro write addr d
    rw [busyNanoseconds, busyTime_decodeRequest, Option.map_none]

end Busy

end Sys2Proof.Proofs

/-! PROOFS of the statements about the state: who moves in a step (R20), what an instruction can do to the state, the
invariant, the stale LUT (R33), the fold of the line events into their command (R20), and the registers (R23 to R30). -/

namespace Sys2Proof.Proofs

open Sys2Proof.Machine Sys2Proof.Laws Sys2Proof.Safety

/-! ### Commands and bus accesses -/

/-- The instructions that a CMD word can hold (R74); the others are bus accesses (R78). -/
def isCommand : Instr → Bool
  | .nop | .init | .configure | .preset _ | .correct | .decode _ _ | .wrpix _ _ | .wrpixraw _ _ | .wrslotraw _
  | .flush | .reservedOpc _ => true
  | _ => false

theorem isCommand_decodeCommand (w : Word) : isCommand (decodeCommand w) = true := by
  unfold decodeCommand
  split <;> rfl

theorem isCommand_decodeRequest (write : Bool) (addr : BitVec 6) (d : Word) :
    isCommand (decodeRequest write addr d) = false := by
  unfold decodeRequest
  repeat' split
  all_goals rfl

/-! ### Who moves in a step (R20) -/

section Moves

variable {s t : State} {p : Pending} {w : Word}

/-- The command engine completes the command in progress. -/
theorem engineStep_of_pending (hr : s.rst = false) (hp : s.pending = some p) :
    engineStep s = exec (decodeCommand p.word) s := by simp [engineStep, hr, hp]

/-- Between commands the engine accepts a held CMD write (R57). -/
theorem engineStep_of_held (hr : s.rst = false) (hp : s.pending = none) (hh : s.held = some w) :
    engineStep s = .next (accept w { s with held := none }) := by
  simp [engineStep, hr, hp, hh, exec, execBusWCmd, busWrite, busy]

theorem engineStep_of_nothing (hp : s.pending = none) (hh : s.held = none) : engineStep s = .next s := by
  simp [engineStep, hp, hh]

/-- While `rst` = 1 the engine and the transmitter stand still (R240). -/
theorem engineStep_in_reset (hr : s.rst = true) : engineStep s = .next s := by simp [engineStep, hr]

theorem txStep_in_reset (hr : s.rst = true) : txStep s = .next s := by simp [txStep, hr]

/-- Outside the latch period the transmitter's move is one line event. -/
theorem txStep_of_ne_latch (hr : s.rst = false) (h : s.txPhase ≠ .latch) : txStep s = .next (txAdvance s) := by
  unfold txStep
  rw [if_neg (by simp [hr])]
  split
  next h' => exact absurd h' h
  next => rfl

/-- A line event with nothing to send. -/
theorem txStep_of_no_frame (hr : s.rst = false) (h : txSource s = none) : txStep s = .next (txAdvance s) := by
  simp [txStep, hr, h]

/-- At the end of the latch period the command completes (R178). -/
theorem txStep_of_latch (h : s.txPhase = .latch) (hs : (txSource s).isSome = true) : txStep s = engineStep s := by
  obtain ⟨fb, hfb⟩ := Option.isSome_iff_exists.1 hs
  unfold txStep
  split
  next hr => exact (engineStep_in_reset hr).symm
  next => rw [hfb, h]

/-- What one move of an agent of the block or of the host can do. -/
inductive Move (s : State) : State → Prop
  | idle : Move s s
  | command {t : State} (p : Pending) (hr : s.rst = false) (hp : s.pending = some p)
      (h : exec (decodeCommand p.word) s = .next t) : Move s t
  | held (w : Word) (hr : s.rst = false) (hp : s.pending = none) (hw : s.held = some w) :
      Move s (accept w { s with held := none })
  | access {t : State} (write : Bool) (addr : BitVec 6) (d : Word)
      (h : exec (decodeRequest write addr d) s = .next t) : Move s t
  | line (hr : s.rst = false) : Move s (txAdvance s)

theorem engineStep_move (h : engineStep s = .next t) : Move s t := by
  cases hr : s.rst with
  | true => rw [engineStep_in_reset hr] at h; cases h; exact .idle
  | false =>
    cases hp : s.pending with
    | some p => exact .command p hr hp (engineStep_of_pending hr hp ▸ h)
    | none =>
      cases hw : s.held with
      | some w => rw [engineStep_of_held hr hp hw] at h; cases h; exact .held w hr hp hw
      | none => rw [engineStep_of_nothing hp hw] at h; cases h; exact .idle

theorem txStep_move (h : txStep s = .next t) : Move s t := by
  cases hr : s.rst with
  | true => rw [txStep_in_reset hr] at h; cases h; exact .idle
  | false =>
    by_cases hl : s.txPhase = .latch
    · cases hs : txSource s with
      | none => rw [txStep_of_no_frame hr hs] at h; cases h; exact .line hr
      | some fb => rw [txStep_of_latch hl (by rw [hs]; rfl)] at h; exact engineStep_move h
    · rw [txStep_of_ne_latch hr hl] at h; cases h; exact .line hr

/-- A step is a level of `rst`, or a move in the state whose list of inputs may have lost its head. -/
theorem step_cases (h : step s = .next t) :
    (∃ level rest, s.inputs = .rst level :: rest ∧ t = driveRst level { s with inputs := rest }) ∨
    ∃ rest, Move { s with inputs := rest } t := by
  unfold step at h
  split at h
  next => exact .inr ⟨s.inputs, engineStep_move h⟩
  next i rest hi =>
    cases i with
    | bus r =>
      dsimp only [inputStep] at h
      split at h
      · exact .inr ⟨s.inputs, engineStep_move h⟩
      · exact .inr ⟨rest, .access _ _ _ h⟩
    | engine => exact .inr ⟨rest, engineStep_move h⟩
    | tx => exact .inr ⟨rest, txStep_move h⟩
    | rst level => cases h; exact .inl ⟨level, rest, hi, rfl⟩

end Moves

/-- Settles O5: the three ways are three uses of the engine's move. -/
theorem engineMoveRunsTheCommandInProgress : Obligations.EngineMoveRunsTheCommandInProgress := by
  intro s p i hr hp hi
  cases hi
  refine ⟨fun rest h => ?_, fun h => ?_, fun r rest h hh => ?_⟩
  · simp only [step, h, inputStep]
    exact engineStep_of_pending (s := { s with inputs := rest }) hr hp
  · simp only [step, h]
    exact engineStep_of_pending hr hp
  · simp only [step, h, inputStep, if_pos (Option.isSome_iff_ne_none.2 hh)]
    exact engineStep_of_pending hr hp

/-- Settles O7: the two cases of the transmitter's move. -/
theorem transmitterMoveIsALineEventOrCompletion : Obligations.TransmitterMoveIsALineEventOrCompletion := by
  intro s p rest hr hp h
  simp only [step, h, inputStep]
  refine ⟨fun hl => txStep_of_ne_latch (s := { s with inputs := rest }) hr hl, fun hl hs => ?_⟩
  rw [txStep_of_latch (s := { s with inputs := rest }) hl hs]
  exact engineStep_of_pending (s := { s with inputs := rest }) hr hp

/-! ### What an instruction can do to the state -/

/-- What a bus access can do. -/
inductive AccessEffect (s : State) : Instr → State → Prop
  | read {i : Instr} (v : Word) : AccessEffect s i { s with reads := s.reads ++ [v] }
  | ignored {i : Instr} : AccessEffect s i s
  | cmdHeld (w : Word) (hr : s.rst = false) : AccessEffect s (.busWCmd w) { s with held := some w }
  | cmdAccepted (w : Word) (hr : s.rst = false) (hp : s.pending = none) : AccessEffect s (.busWCmd w) (accept w s)
  | status (d : Word) (hr : s.rst = false) : AccessEffect s (.busWStatus d) (writeStatus d s)
  | color (d : Word) (hr : s.rst = false) : AccessEffect s (.busWColor d) { s with color := Rgb.ofWord d }
  | stgGamma (d : Word) (hr : s.rst = false) : AccessEffect s (.busWStgGamma d) { s with stgGamma := d }
  | stgRatio (d : Word) (hr : s.rst = false) : AccessEffect s (.busWStgRatio d) { s with stgRatio := d }
  | stgCfg (d : Word) (hr : s.rst = false) :
      AccessEffect s (.busWStgCfg d) { s with stgCfg := d.extractLsb' 0 11 }

/-- What a command can do when it completes. -/
inductive CommandEffect (s : State) : Instr → State → Prop
  | nothing {i : Instr} : CommandEffect s i (complete s)
  | error {i : Instr} (e : CmdError)
      (hi : i = .configure ∨ (∃ m, i = .preset m) ∨ i = .flush ∨ ∃ o, i = .reservedOpc o) :
      CommandEffect s i (complete (recordError e s))
  | configured {i : Instr} (c : CorrConfig) (hi : i = .configure ∨ ∃ m, i = .preset m)
      (hg : isFinitePos c.gamma = true) (hr : isFinitePos c.ratio = true) :
      CommandEffect s i (complete (commitLut s.cfg.gamma { s with cfg := c }))
  | corrected (v : Word) : CommandEffect s .correct (complete { lazyBuild s with result := v })
  | decoded (x y : Byte) (v : Word) : CommandEffect s (.decode x y) (complete { s with result := v })
  | pixel (x y : Byte) (n : Nat) (sl : Slot) :
      CommandEffect s (.wrpix x y) (complete (writeSlot n sl (lazyBuild s)))
  | raw {i : Instr} (n : Nat) (sl : Slot) (hi : (∃ x y, i = .wrpixraw x y) ∨ ∃ m, i = .wrslotraw m) :
      CommandEffect s i (complete (writeSlot n sl s))
  | init : CommandEffect s .init (completeFrame blackFrame { s with txEn := true, fb := blackFrame })
  | flush : CommandEffect s .flush (completeFrame s.fb s)

section Effects

variable {s t : State} {i : Instr}

theorem busRead_effect {v : Word} (h : busRead v s = .next t) : AccessEffect s i t := by
  cases h; exact .read _

/-- A bus write has its effect, or none while `rst` = 1 (R240). -/
theorem busWrite_effect {f : State → State} (hf : s.rst = false → AccessEffect s i (f s))
    (h : busWrite f s = .next t) : AccessEffect s i t := by
  cases hr : s.rst with
  | true => rw [busWrite_in_reset hr] at h; cases h; exact .ignored
  | false => rw [busWrite_eq hr] at h; cases h; exact hf hr

theorem exec_access_effect (hi : isCommand i = false) (h : exec i s = .next t) : AccessEffect s i t := by
  cases i with
  | busWCmd w =>
    dsimp only [exec, execBusWCmd] at h
    refine busWrite_effect (fun hr => ?_) h
    split
    next => exact .cmdHeld w hr
    next hb => exact .cmdAccepted w hr (by simpa [busy] using hb)
  | busWStatus d => exact busWrite_effect (.status d) h
  | busWColor d => dsimp only [exec, execBusWColor] at h; exact busWrite_effect (.color d) h
  | busWStgGamma d => dsimp only [exec, execBusWStgGamma] at h; exact busWrite_effect (.stgGamma d) h
  | busWStgRatio d => dsimp only [exec, execBusWStgRatio] at h; exact busWrite_effect (.stgRatio d) h
  | busWStgCfg d => dsimp only [exec, execBusWStgCfg] at h; exact busWrite_effect (.stgCfg d) h
  | busReserved w a =>
    cases w
    · exact busRead_effect h
    · exact busWrite_effect (fun _ => .ignored) h
  | busRCmd | busRStatus | busRColor | busRResult | busRStgGamma | busRStgRatio | busRStgCfg | busRFbdata n =>
    exact busRead_effect h
  | nop | init | configure | preset | correct | decode | wrpix | wrpixraw | wrslotraw | flush | reservedOpc =>
    cases hi

/-- Every row of PRESET_TABLE is legal (R103). -/
theorem presetTable_legal {mode : Nat} {c : CorrConfig} (h : presetTable mode = some c) :
    isFinitePos c.gamma = true ∧ isFinitePos c.ratio = true := by
  unfold presetTable at h
  split at h <;> cases h <;> decide

theorem exec_command_effect (hi : isCommand i = true) (h : exec i s = .next t) : CommandEffect s i t := by
  cases i with
  | nop => cases h; exact .nothing
  | init => cases h; exact .init
  | configure =>
    dsimp only [exec, execConfigure] at h
    split at h <;> cases h
    next hl =>
      obtain ⟨hg, hr⟩ := Bool.and_eq_true_iff.1 hl
      exact .configured _ (.inl rfl) hg hr
    next => exact .error _ (.inl rfl)
  | preset m =>
    dsimp only [exec, execPreset] at h
    split at h <;> cases h
    next c hc => exact .configured c (.inr ⟨m, rfl⟩) (presetTable_legal hc).1 (presetTable_legal hc).2
    next => exact .error _ (.inr (.inl ⟨m, rfl⟩))
  | correct => cases h; exact .corrected _
  | decode x y => cases h; exact .decoded x y _
  | wrpix x y =>
    dsimp only [exec, execWrpix] at h
    split at h <;> cases h
    · exact .pixel x y _ _
    · exact .nothing
  | wrpixraw x y =>
    dsimp only [exec, execWrpixraw] at h
    split at h <;> cases h
    · exact .raw _ _ (.inl ⟨x, y, rfl⟩)
    · exact .nothing
  | wrslotraw n =>
    dsimp only [exec, execWrslotraw] at h
    split at h <;> cases h
    · exact .raw _ _ (.inr ⟨n, rfl⟩)
    · exact .nothing
  | flush =>
    dsimp only [exec, execFlush] at h
    split at h <;> cases h
    · exact .flush
    · exact .error _ (.inr (.inr (.inl rfl)))
  | reservedOpc o => cases h; exact .error _ (.inr (.inr (.inr ⟨o, rfl⟩)))
  | busWCmd | busRCmd | busRStatus | busWStatus | busRColor | busWColor | busRResult | busWStgGamma | busWStgRatio
  | busWStgCfg | busRStgGamma | busRStgRatio | busRStgCfg | busRFbdata | busReserved => cases hi

end Effects

/-- Settles O44: each effect of an instruction leaves the elements alone that it does not name. -/
theorem onlyTheNamedInstructionsWrite : Obligations.OnlyTheNamedInstructionsWrite := by
  intro i s t h
  cases hc : isCommand i with
  | false =>
    cases exec_access_effect hc h with
    | read | ignored | cmdHeld | cmdAccepted | color | stgGamma | stgRatio | stgCfg | status => simp
  | true =>
    cases exec_command_effect hc h with
    | error e hi => rcases hi with rfl | ⟨m, rfl⟩ | rfl | ⟨o, rfl⟩ <;> simp
    | configured c hi => rcases hi with rfl | ⟨m, rfl⟩ <;> simp
    | raw n sl hi => rcases hi with ⟨x, y, rfl⟩ | ⟨m, rfl⟩ <;> simp
    | nothing | corrected | decoded | pixel | init | flush => simp

/-! ### The invariant -/

/-- The part of the invariant that speaks of CFG, the LUT and the error record. -/
structure RegistersOk (s : State) : Prop where
  legalGamma : isFinitePos s.cfg.gamma = true
  legalRatio : isFinitePos s.cfg.ratio = true
  lutFresh : s.lutValid = true → s.lut = gammaTable s.cfg.gamma
  errCode : s.err = true ↔ s.errCode ≠ 0
  knownCode : s.errCode.toNat ≤ 4

/-- The part of the invariant that speaks of the transmitter and its line. -/
structure LineOk (s : State) : Prop where
  txOwned : s.txPhase ≠ .idle → (txSource s).isSome = true
  leadIsInit : s.txPhase = .lead → (s.pending.map fun p => decodeCommand p.word) = some .init
  lineLow : s.dout = true → s.txPhase = .data

/-- The part of the invariant that speaks of `rst` = 1. -/
def ResetHolds (s : State) : Prop := s.rst = true → AtResetValues s ∧ s.held = none

theorem inv_iff {s : State} : Inv s ↔ RegistersOk s ∧ LineOk s ∧ ResetHolds s where
  mp h := ⟨⟨h.legalGamma, h.legalRatio, h.lutFresh, h.errCode, h.knownCode⟩,
    ⟨h.txOwned, h.leadIsInit, h.lineLow⟩, h.inReset⟩
  mpr := fun ⟨r, l, h⟩ => ⟨r.legalGamma, r.legalRatio, r.lutFresh, r.errCode, r.knownCode, l.txOwned, l.leadIsInit,
    l.lineLow, h⟩

section Invariant

variable {s t : State} {i : Instr}

/-- Only CFG, the LUT and the error record matter. -/
theorem RegistersOk.congr (h : RegistersOk s) (hc : t.cfg = s.cfg) (hv : t.lutValid = s.lutValid) (hl : t.lut = s.lut)
    (he : t.err = s.err) (hn : t.errCode = s.errCode) : RegistersOk t := by
  obtain ⟨hg, hr, hf, hz, hk⟩ := h
  constructor <;> simpa only [hc, hv, hl, he, hn]

theorem CmdError.code_ne_zero (e : CmdError) : e.code ≠ 0 := by cases e <;> decide

theorem CmdError.code_le_four (e : CmdError) : e.code.toNat ≤ 4 := by cases e <;> decide

/-- The first error is one of the codes of R210, and a later one changes nothing. -/
theorem RegistersOk.recordError (e : CmdError) (h : RegistersOk s) : RegistersOk (recordError e s) where
  legalGamma := by simpa using h.legalGamma
  legalRatio := by simpa using h.legalRatio
  lutFresh := by simpa using h.lutFresh
  errCode := by
    rw [recordError_err, recordError_errCode]
    split
    next he => simpa using h.errCode.1 he
    next => simpa using CmdError.code_ne_zero e
  knownCode := by
    rw [recordError_errCode]
    split
    · exact h.knownCode
    · exact CmdError.code_le_four e

/-- A STATUS write clears ERR and ERR_CODE together. -/
theorem RegistersOk.writeStatus (d : Word) (h : RegistersOk s) : RegistersOk (writeStatus d s) := by
  unfold Machine.writeStatus
  split
  · exact ⟨h.legalGamma, h.legalRatio, h.lutFresh, by simp, by simp⟩
  · exact h

/-- The lazy build leaves a LUT that is valid only as the table of CFG.GAMMA. -/
theorem RegistersOk.lazyBuild (h : RegistersOk s) : RegistersOk (lazyBuild s) := by
  unfold Machine.lazyBuild
  split
  · exact ⟨h.legalGamma, h.legalRatio, fun _ => rfl, h.errCode, h.knownCode⟩
  · exact h

/-- A new legal CFG and CommitLUT: the LUT is rebuilt, or kept valid only under the same gamma (R114). -/
theorem RegistersOk.configured {c : CorrConfig} (hg : isFinitePos c.gamma = true) (hr : isFinitePos c.ratio = true)
    (h : RegistersOk s) : RegistersOk (commitLut s.cfg.gamma { s with cfg := c }) := by
  rw [commitLut_eq]
  refine ⟨hg, hr, fun hv => ?_, h.errCode, h.knownCode⟩
  dsimp only at hv ⊢
  cases hc : c.enGamma with
  | true => rfl
  | false =>
    simp only [hc, Bool.false_or, Bool.and_eq_true, beq_iff_eq] at hv
    obtain ⟨hsame, hvalid⟩ := hv
    rw [hsame]
    exact h.lutFresh hvalid

theorem CommandEffect.registersOk (he : CommandEffect s i t) (h : RegistersOk s) : RegistersOk t := by
  cases he with
  | nothing | decoded | raw | init | flush => exact h.congr rfl rfl rfl rfl rfl
  | error e => exact (h.recordError e).congr rfl rfl rfl rfl rfl
  | configured c _ hg hr => exact (h.configured hg hr).congr rfl rfl rfl rfl rfl
  | corrected | pixel => exact h.lazyBuild.congr rfl rfl rfl rfl rfl

theorem AccessEffect.registersOk (he : AccessEffect s i t) (h : RegistersOk s) : RegistersOk t := by
  cases he with
  | ignored => exact h
  | status d => exact h.writeStatus d
  | read | cmdHeld | cmdAccepted | color | stgGamma | stgRatio | stgCfg => exact h.congr rfl rfl rfl rfl rfl

/-- The line is low and the TX idle: nothing more to ask of them. -/
theorem LineOk.of_idle (hp : s.txPhase = .idle) (hd : s.dout = false) : LineOk s := by
  constructor <;> simp [hp, hd]

theorem LineOk.congr (h : LineOk s) (hs : txSource t = txSource s) (hp : t.pending = s.pending)
    (ht : t.txPhase = s.txPhase) (hd : t.dout = s.dout) : LineOk t := by
  obtain ⟨ho, hl, hw⟩ := h
  constructor <;> simpa only [hs, hp, ht, hd]

/-- Without a frame to send the TX is idle and the line low. -/
theorem LineOk.idle_of_no_frame (h : LineOk s) (hs : txSource s = none) : s.txPhase = .idle ∧ s.dout = false := by
  have hp : s.txPhase = .idle := by
    by_contra hp
    simpa [hs] using h.txOwned hp
  refine ⟨hp, ?_⟩
  by_contra hd
  simpa [hp] using h.lineLow (by simpa using hd)

theorem AccessEffect.lineOk (he : AccessEffect s i t) (h : LineOk s) : LineOk t := by
  cases he with
  | ignored => exact h
  | status d => exact h.congr (by simp [txSource]) (by simp) (by simp) (by simp)
  | cmdAccepted w hr hp =>
    obtain ⟨hi, hd⟩ := h.idle_of_no_frame (txSource_of_none hp)
    exact .of_idle hi hd
  | read | cmdHeld | color | stgGamma | stgRatio | stgCfg => exact h.congr rfl rfl rfl rfl

/-- A command leaves the TX and the line alone or at rest. -/
theorem CommandEffect.line (he : CommandEffect s i t) :
    (t.txPhase = s.txPhase ∧ t.dout = s.dout) ∨ (t.txPhase = .idle ∧ t.dout = false) := by
  cases he with
  | init | flush => exact .inr ⟨rfl, rfl⟩
  | nothing | error | configured | corrected | decoded | pixel | raw => exact .inl (by simp)

/-- Which commands have a frame to send (R31). -/
theorem transmits_of_txSource {p : Pending} {fb : FrameBuffer} (hp : s.pending = some p) (hs : txSource s = some fb) :
    (decodeCommand p.word = .init ∧ fb = blackFrame) ∨
      (decodeCommand p.word = .flush ∧ s.txEn = true ∧ fb = s.fb) := by
  unfold txSource at hs
  rw [hp] at hs
  dsimp only at hs
  split at hs
  next hi => exact .inl ⟨hi, (Option.some.inj hs).symm⟩
  split at hs
  next hf => exact .inr ⟨hf.1, hf.2, (Option.some.inj hs).symm⟩
  cases hs

/-- After the command in progress the TX is idle, whether or not it transmitted. -/
theorem LineOk.command {p : Pending} (h : LineOk s) (hp : s.pending = some p)
    (he : exec (decodeCommand p.word) s = .next t) : LineOk t := by
  have hq := (exec_command_effect (isCommand_decodeCommand _) he).line
  cases hs : txSource s with
  | none =>
    obtain ⟨hi, hd⟩ := h.idle_of_no_frame hs
    rw [hi, hd, or_self] at hq
    exact .of_idle hq.1 hq.2
  | some fb =>
    rcases transmits_of_txSource hp hs with ⟨hi, -⟩ | ⟨hf, hen, -⟩
    · rw [hi] at he
      cases he
      exact .of_idle rfl rfl
    · rw [hf] at he
      simp only [exec, execFlush, if_pos hen] at he
      cases he
      exact .of_idle rfl rfl

/-- With a frame to send, a phase after LEAD has only the line to mind. -/
theorem LineOk.of_frame {fb : FrameBuffer} (hs : txSource s = some fb) (hl : s.txPhase ≠ .lead)
    (hd : s.dout = true → s.txPhase = .data) : LineOk s :=
  ⟨fun _ => by rw [hs]; rfl, fun h => absurd h hl, hd⟩

/-- The next bit is one of DATA, and after the last one the line stays low. -/
theorem LineOk.nextBit {fb : FrameBuffer} (hs : txSource s = some fb) (hp : s.txPhase = .data)
    (hd : s.dout = false) : LineOk (nextBit fb s) := by
  have hs' : txSource (Machine.nextBit fb s) = some fb := by simpa [txSource] using hs
  by_cases hb : 0 < s.txBit.val
  · apply LineOk.of_frame hs' <;> simp [nextBit_in_slot hb, hp]
  · by_cases hn : s.txSlot.val < 24
    · apply LineOk.of_frame hs' <;> simp [nextBit_next_slot hb hn, hp]
    · apply LineOk.of_frame hs' <;> simp [nextBit_last hb hn, hd]

/-- A line event keeps the line in step with the TX's phase. -/
theorem LineOk.txAdvance (h : LineOk s) : LineOk (txAdvance s) := by
  cases hs : txSource s with
  | none => rwa [txAdvance_of_none hs]
  | some fb =>
    have start : LineOk (startFrame s) := .of_frame (fb := fb) hs (by simp) (by simp)
    cases ht : s.txPhase with
    | idle =>
      cases hp : s.pending with
      | none => simp [txSource_of_none hp] at hs
      | some p =>
        rcases transmits_of_txSource hp hs with ⟨hi, -⟩ | ⟨hf, -, -⟩
        · rw [txAdvance_idle_init hs hp hi ht]
          exact ⟨fun _ => congrArg Option.isSome hs, fun _ => by simp [hp, hi], by simp⟩
        · rwa [txAdvance_idle_flush hs hp hf ht]
    | lead => rwa [txAdvance_lead hs ht]
    | data =>
      cases hd : s.dout with
      | true => rw [txAdvance_high hs ht hd]; exact .of_frame (fb := fb) hs (by simp [ht]) (by simp)
      | false => rw [txAdvance_low hs ht hd]; exact .nextBit hs ht hd
    | latch => rwa [txAdvance_latch ht]

/-! #### The invariant, move by move -/

theorem AccessEffect.resetHolds (he : AccessEffect s i t) (h : ResetHolds s) : ResetHolds t := by
  cases he with
  | ignored => exact h
  | read v => exact fun hr => ⟨{ (h hr).1 with }, (h hr).2⟩
  | status d hr => exact fun hr' => absurd (hr'.symm.trans (by simpa using hr)) (by simp)
  | cmdHeld w hr | cmdAccepted w hr | color d hr | stgGamma d hr | stgRatio d hr | stgCfg d hr =>
    exact fun hr' => absurd (hr'.symm.trans hr) (by simp)

theorem CommandEffect.rst (he : CommandEffect s i t) : t.rst = s.rst := by
  cases he with
  | nothing | error | configured | corrected | decoded | pixel | raw | init | flush => simp

theorem ResetHolds.of_running (hr : s.rst = false) : ResetHolds s := fun h => absurd (h.symm.trans hr) (by simp)

theorem inv_move (hm : Move s t) (h : Inv s) : Inv t := by
  obtain ⟨hreg, hline, hres⟩ := inv_iff.1 h
  rw [inv_iff]
  cases hm with
  | idle => exact ⟨hreg, hline, hres⟩
  | command p hr hp he =>
    have heff := exec_command_effect (isCommand_decodeCommand _) he
    exact ⟨heff.registersOk hreg, hline.command hp he, .of_running (heff.rst.trans hr)⟩
  | held w hr hp =>
    obtain ⟨hi, hd⟩ := hline.idle_of_no_frame (txSource_of_none hp)
    exact ⟨hreg.congr rfl rfl rfl rfl rfl, .of_idle hi hd, .of_running hr⟩
  | access write addr d he =>
    have heff := exec_access_effect (isCommand_decodeRequest _ _ _) he
    exact ⟨heff.registersOk hreg, heff.lineOk hline, heff.resetHolds hres⟩
  | line hr =>
    exact ⟨hreg.congr (by simp) (by simp) (by simp) (by simp) (by simp), hline.txAdvance,
      .of_running (by simpa using hr)⟩

/-- The coming moves are no part of the invariant. -/
theorem inv_withInputs (rest : List Input) (h : Inv s) : Inv { s with inputs := rest } :=
  { h with inReset := fun hr => ⟨{ (h.inReset hr).1 with }, (h.inReset hr).2⟩ }

/-- The default CFG is legal, no LUT is valid and no error recorded. -/
theorem registersOk_reset : RegistersOk State.reset where
  legalGamma := by decide
  legalRatio := by decide
  lutFresh h := absurd h Bool.false_ne_true
  errCode := by decide
  knownCode := by decide

/-- `rst` = 1 gives every element its reset value (R240, R241). -/
theorem atResetValues_resetBlock (s : State) : AtResetValues (resetBlock s) := by
  constructor
  case fb => exact fbWord_blackFrame
  all_goals rfl

theorem inv_driveRst (level : Bool) (h : Inv s) : Inv (driveRst level s) := by
  cases level with
  | false => exact { h with inReset := fun hr => absurd hr Bool.false_ne_true }
  | true =>
    exact inv_iff.2 ⟨registersOk_reset.congr rfl rfl rfl rfl rfl, .of_idle rfl rfl,
      fun _ => ⟨atResetValues_resetBlock s, rfl⟩⟩

end Invariant

/-- Settles O52: the registers' part, the TX idle, and `rst` released. -/
theorem resetMeetsTheInvariant : Obligations.ResetMeetsTheInvariant :=
  inv_iff.2 ⟨registersOk_reset, .of_idle rfl rfl, .of_running rfl⟩

/-- Settles O53: `rst` and every move of the block and the host keep the invariant's three parts. -/
theorem stepKeepsTheInvariant : Obligations.StepKeepsTheInvariant := by
  intro s t h hs
  obtain ⟨level, rest, -, rfl⟩ | ⟨rest, hm⟩ := step_cases hs
  · exact inv_driveRst level (inv_withInputs rest h)
  · exact inv_move hm (inv_withInputs rest h)

/-! ### The output enable (R31, R50, R170) -/

/-- Above its four flags the STATUS word is ERR_CODE, and 0 from there on (R23). -/
theorem statusWord_getLsbD_add (s : State) (k : Nat) : (statusWord s).getLsbD (4 + k) = s.errCode.getLsbD k := by
  have hk : ¬ 4 + k < 1 ∧ ¬ 4 + k - 1 < 1 ∧ ¬ 4 + k - 1 - 1 < 1 ∧ ¬ 4 + k - 1 - 1 - 1 < 1 ∧
    4 + k - 1 - 1 - 1 - 1 = k := by omega
  simp only [statusWord, BitVec.getLsbD_append, hk, if_false, BitVec.getLsbD_zero]
  split
  next => rfl
  next h => exact (BitVec.getLsbD_of_ge _ _ (by omega)).symm

theorem statusWord_fields (s : State) :
    (statusWord s).getLsbD 0 = busy s ∧ (statusWord s).getLsbD 1 = s.txEn ∧ (statusWord s).getLsbD 2 = s.lutValid ∧
    (statusWord s).getLsbD 3 = s.err ∧ (statusWord s).extractLsb' 4 4 = s.errCode ∧
    (statusWord s).extractLsb' 8 24 = 0 := by
  refine ⟨?busy, ?txEn, ?lutValid, ?err, ?code, ?zeros⟩
  case code =>
    apply BitVec.eq_of_getLsbD_eq
    intro i hi
    simp only [BitVec.getLsbD_extractLsb', statusWord_getLsbD_add, hi, decide_true, Bool.true_and]
  case zeros =>
    apply BitVec.eq_of_getLsbD_eq
    intro i hi
    rw [BitVec.getLsbD_extractLsb', show 8 + i = 4 + (4 + i) by omega, statusWord_getLsbD_add,
      BitVec.getLsbD_of_ge _ (4 + i) (by omega), Bool.and_false]
    exact BitVec.getLsbD_zero.symm
  all_goals
    simp only [statusWord, BitVec.getLsbD_append]
    simp

/-- Settles O13: the host reads `statusWord`, and nothing else changes. -/
theorem statusReadReturnsItsFields : Obligations.StatusReadReturnsItsFields :=
  fun s hr => ⟨statusWord s, busRead_eq hr _, statusWord_fields s⟩

/-- Only an INIT changes TX_EN, and it sets it (R180). -/
theorem exec_changes_txEn {i : Instr} {s t : State} (h : exec i s = .next t) (hne : t.txEn ≠ s.txEn) :
    i = .init ∧ t.pending = none ∧ t.txEn = true := by
  obtain ⟨-, -, -, hinit, -⟩ := onlyTheNamedInstructionsWrite i s t h
  obtain rfl := hinit hne
  cases h
  exact ⟨rfl, rfl, rfl⟩

/-- Settles O56: bit 1 of STATUS, and who can change TX_EN in a step. -/
theorem outputEnableIsTxEn : Obligations.OutputEnableIsTxEn := by
  refine ⟨fun s hr => ⟨statusWord s, busRead_eq hr _, (statusWord_fields s).2.1⟩, fun s t hs hne => ?_⟩
  unfold doutOe at hne ⊢
  obtain ⟨level, rest, hi, rfl⟩ | ⟨rest, hm⟩ := step_cases hs
  · cases level with
    | true => exact .inr (by rw [hi]; rfl)
    | false => exact absurd rfl hne
  · cases hm with
    | idle | held => exact absurd rfl hne
    | line => exact absurd (txAdvance_txEn _) hne
    | command p hr hp he => exact .inl ⟨p, hp, exec_changes_txEn he hne⟩
    | access write addr d he =>
      have hc := isCommand_decodeRequest write addr d
      rw [(exec_changes_txEn he hne).1] at hc
      cases hc

/-! ### COLOR, RESULT, FBDATA and the staging registers -/

theorem rgb_toWord_fields (c : Rgb) :
    c.toWord.extractLsb' 24 8 = 0 ∧ c.toWord.extractLsb' 16 8 = c.r ∧ c.toWord.extractLsb' 8 8 = c.g ∧
    c.toWord.extractLsb' 0 8 = c.b := extract_bytes 0 c.r c.g c.b

theorem slot_toWord_fields (sl : Slot) :
    sl.toWord.extractLsb' 24 8 = 0 ∧ sl.toWord.extractLsb' 16 8 = sl.g ∧ sl.toWord.extractLsb' 8 8 = sl.r ∧
    sl.toWord.extractLsb' 0 8 = sl.b := extract_bytes 0 sl.g sl.r sl.b

/-- A word stored in COLOR comes back without its upper byte. -/
theorem toWord_ofWord (d : Word) : (Rgb.ofWord d).toWord = d &&& 0x00FFFFFF := by
  apply BitVec.eq_of_getLsbD_eq
  intro i hi
  simp only [Rgb.toWord, Rgb.ofWord, BitVec.getLsbD_append, BitVec.getLsbD_extractLsb', BitVec.getLsbD_and]
  interval_cases i <;> simp

/-- A COLOR write (R25). -/
theorem exec_busWColor {s : State} (hr : s.rst = false) (d : Word) :
    exec (.busWColor d) s = .next { s with color := Rgb.ofWord d } := by
  simp only [exec, execBusWColor, busWrite_eq hr]

/-- Settles O15: the write, the layout of the word read, and the two in a row. -/
theorem colorWriteAndRead : Obligations.ColorWriteAndRead := by
  intro s d hr
  refine ⟨exec_busWColor hr d, ⟨_, busRead_eq hr _, rgb_toWord_fields s.color⟩, fun t h => ?_⟩
  rw [exec_busWColor hr] at h
  cases h
  rw [← toWord_ofWord]
  exact busRead_eq (s := { s with color := Rgb.ofWord d }) hr _

/-- Settles O16: a slot's word where there is a slot, and 0 past the last. -/
theorem resultAndSlotReads : Obligations.ResultAndSlotReads := by
  refine fun s hr => ⟨busRead_eq hr _, fun n hn => ⟨_, busRead_eq hr _, ?_⟩, fun n hn => ?_⟩
  · rw [fbWord_of_lt s.fb hn]
    exact slot_toWord_fields _
  · rw [← fbWord_of_ge s.fb (Nat.not_lt.2 hn)]
    exact busRead_eq hr _

/-- Settles O17: each write has its effect only; the 11 bits of STG_CFG are the number modulo 2^11. -/
theorem stagingWritesStoreAnyValue : Obligations.StagingWritesStoreAnyValue := by
  intro s d hr
  have low : BitVec.ofNat 11 (d.toNat % 2 ^ 11) = d.extractLsb' 0 11 := by
    apply BitVec.eq_of_toNat_eq
    simp
  refine ⟨?_, ?_, ?_⟩
  · simp only [exec, execBusWStgGamma, busWrite_eq hr]
  · simp only [exec, execBusWStgRatio, busWrite_eq hr]
  · simp only [exec, execBusWStgCfg, busWrite_eq hr, low]

/-! ### A line event folds into its command (R20) -/

/-- What one line event can change: the counters and the line before the latch period, or the trace by the frame where
that period begins. -/
inductive LineEvent (fb : FrameBuffer) (s : State) : State → Prop
  | none : LineEvent fb s s
  | bit (phase : TxPhase) (slot : Fin 25) (bit : Fin 24) (level : Bool) (hs : s.txPhase ≠ .latch)
      (hp : phase ≠ .latch) :
      LineEvent fb s { s with txPhase := phase, txSlot := slot, txBit := bit, dout := level }
  | sent (hs : s.txPhase ≠ .latch) :
      LineEvent fb s { s with txPhase := .latch, trace := s.trace ++ [.frame (frameBits fb)] }

section LineEvents

variable {s : State} {p : Pending} {fb : FrameBuffer}

theorem nextBit_lineEvent (hp : s.txPhase = .data) : LineEvent fb s (nextBit fb s) := by
  by_cases hb : 0 < s.txBit.val
  · rw [nextBit_in_slot hb]; exact .bit s.txPhase _ _ _ (by simp [hp]) (by simp [hp])
  · by_cases hn : s.txSlot.val < 24
    · rw [nextBit_next_slot hb hn]; exact .bit s.txPhase _ _ _ (by simp [hp]) (by simp [hp])
    · rw [nextBit_last hb hn]; exact .sent (by simp [hp])

theorem txAdvance_lineEvent (hp : s.pending = some p) (hs : txSource s = some fb) :
    LineEvent fb s (txAdvance s) := by
  cases ht : s.txPhase with
  | idle =>
    rcases transmits_of_txSource hp hs with ⟨hi, -⟩ | ⟨hf, -, -⟩
    · rw [txAdvance_idle_init hs hp hi ht]; exact .bit _ _ _ _ (by simp [ht]) (by simp)
    · rw [txAdvance_idle_flush hs hp hf ht]; exact .bit _ _ _ _ (by simp [ht]) (by simp)
  | lead => rw [txAdvance_lead hs ht]; exact .bit _ _ _ _ (by simp [ht]) (by simp)
  | data =>
    cases hd : s.dout with
    | true => rw [txAdvance_high hs ht hd]; exact .bit s.txPhase _ _ _ (by simp [ht]) (by simp [ht])
    | false => rw [txAdvance_low hs ht hd]; exact nextBit_lineEvent ht
  | latch => rw [txAdvance_latch ht]; exact .none

/-- The completion appends just the events that the line events before it have not. -/
theorem completeFrame_of_lineEvent {t : State} (h : LineEvent fb s t) : completeFrame fb t = completeFrame fb s := by
  cases h with
  | none => rfl
  | bit phase slot bit level hs hp => simp [completeFrame, remainingEvents, hs, hp]
  | sent hs => simp [completeFrame, remainingEvents, hs]

/-- INIT's own effects and a line event do not meet. -/
theorem LineEvent.enable {t : State} (h : LineEvent fb s t) :
    LineEvent fb { s with txEn := true, fb := blackFrame } { t with txEn := true, fb := blackFrame } := by
  cases h with
  | none => exact .none
  | bit phase slot bit level hs hp => exact .bit phase slot bit level hs hp
  | sent hs => exact .sent hs

end LineEvents

/-- Settles O48: only an INIT and an enabled FLUSH have line events, and their completion makes up for them. -/
theorem lineEventsFoldIntoTheCommand : Obligations.LineEventsFoldIntoTheCommand := by
  intro s p hp
  cases hs : txSource s with
  | none => rw [txAdvance_of_none hs]
  | some fb =>
    have he := txAdvance_lineEvent hp hs
    rcases transmits_of_txSource hp hs with ⟨hi, rfl⟩ | ⟨hf, hen, rfl⟩
    · rw [hi]
      exact congrArg Host.Outcome.next (completeFrame_of_lineEvent he.enable)
    · simp only [hf, exec, execFlush, txAdvance_txEn, txAdvance_fb, hen, if_true, completeFrame_of_lineEvent he]

/-! ### The contents of a stale LUT (R33) -/

/-- Two states that agree but for the contents of the LUT, and on those too while it is valid. -/
def AgreeButStaleLut (s t : State) : Prop := ∃ lut, t = { s with lut := lut } ∧ (s.lutValid = true → lut = s.lut)

/-- Both go on, to states that agree in the same way. -/
def GoOnAlike (a b : Result) : Prop := ∃ s t, a = .next s ∧ b = .next t ∧ AgreeButStaleLut s t

section StaleLut

variable {s t : State}

theorem AgreeButStaleLut.refl (s : State) : AgreeButStaleLut s s := ⟨s.lut, rfl, fun _ => rfl⟩

theorem AgreeButStaleLut.next (h : AgreeButStaleLut s t) : GoOnAlike (.next s) (.next t) := ⟨s, t, rfl, rfl, h⟩

theorem AgreeButStaleLut.busRead {v : Word} (h : AgreeButStaleLut s t) : GoOnAlike (busRead v s) (busRead v t) := by
  obtain ⟨lut, rfl, hl⟩ := h
  exact ⟨_, _, rfl, rfl, lut, rfl, hl⟩

theorem AgreeButStaleLut.recordError (e : CmdError) (h : AgreeButStaleLut s t) :
    AgreeButStaleLut (recordError e s) (recordError e t) := by
  obtain ⟨lut, rfl, hl⟩ := h
  unfold Machine.recordError
  dsimp only
  split <;> exact ⟨lut, rfl, hl⟩

theorem AgreeButStaleLut.complete (h : AgreeButStaleLut s t) : AgreeButStaleLut (complete s) (complete t) := by
  obtain ⟨lut, rfl, hl⟩ := h
  exact ⟨lut, rfl, hl⟩

theorem AgreeButStaleLut.writeSlot (n : Nat) (sl : Slot) (h : AgreeButStaleLut s t) :
    AgreeButStaleLut (writeSlot n sl s) (writeSlot n sl t) := by
  obtain ⟨lut, rfl, hl⟩ := h
  exact ⟨lut, rfl, hl⟩

theorem AgreeButStaleLut.operands (h : AgreeButStaleLut s t) : operands t = operands s := by
  obtain ⟨lut, rfl, -⟩ := h
  rfl

theorem AgreeButStaleLut.busWrite {f : State → State} (hf : AgreeButStaleLut s t → AgreeButStaleLut (f s) (f t))
    (h : AgreeButStaleLut s t) : GoOnAlike (busWrite f s) (busWrite f t) := by
  have hr : t.rst = s.rst := by obtain ⟨lut, rfl, -⟩ := h; rfl
  cases hs : s.rst with
  | true => rw [busWrite_in_reset hs, busWrite_in_reset (hr.trans hs)]; exact h.next
  | false => rw [busWrite_eq hs, busWrite_eq (hr.trans hs)]; exact (hf h).next

theorem AgreeButStaleLut.lazyBuild (h : AgreeButStaleLut s t) :
    AgreeButStaleLut (lazyBuild s) (lazyBuild t) := by
  obtain ⟨lut, rfl, hl⟩ := h
  unfold Machine.lazyBuild
  dsimp only
  split
  · exact .refl _
  · exact ⟨lut, rfl, hl⟩

/-- After the lazy build no colour depends on what a stale LUT held. -/
theorem AgreeButStaleLut.correctColor (h : AgreeButStaleLut s t) (c : Rgb) :
    correctColor (Machine.lazyBuild t) c = correctColor (Machine.lazyBuild s) c := by
  obtain ⟨lut, ht, hl⟩ := h.lazyBuild
  rw [ht]
  cases he : s.cfg.enGamma with
  | true => rw [hl (by simp [he])]
  | false => simp [Machine.correctColor, gammaStage, he]

theorem AgreeButStaleLut.commitLut (c : CorrConfig) (h : AgreeButStaleLut s t) :
    AgreeButStaleLut (commitLut s.cfg.gamma { s with cfg := c }) (commitLut t.cfg.gamma { t with cfg := c }) := by
  obtain ⟨lut, rfl, hl⟩ := h
  unfold Machine.commitLut
  dsimp only
  split
  · exact .refl _
  · split
    · exact ⟨lut, rfl, fun hv => absurd hv Bool.false_ne_true⟩
    · exact ⟨lut, rfl, hl⟩

theorem AgreeButStaleLut.raise (e : CmdError) (h : AgreeButStaleLut s t) : GoOnAlike (raise e s) (raise e t) :=
  (h.recordError e).complete.next

/-- No instruction shows what a stale LUT holds: it builds the LUT before it reads it, or does not read it. -/
theorem exec_goesOnAlike (i : Instr) (h : AgreeButStaleLut s t) : GoOnAlike (exec i s) (exec i t) := by
  cases i with
  | nop => exact h.complete.next
  | init | decode | busRCmd | busRStatus | busRColor | busRResult | busRStgGamma | busRStgRatio | busRStgCfg
  | busRFbdata =>
    obtain ⟨lut, rfl, hl⟩ := h
    exact ⟨_, _, rfl, rfl, lut, rfl, hl⟩
  | configure =>
    simp only [exec, execConfigure, h.operands]
    split
    · exact (h.commitLut _).complete.next
    · exact h.raise _
  | preset mode =>
    simp only [exec, execPreset]
    split
    · exact (h.commitLut _).complete.next
    · exact h.raise _
  | correct =>
    simp only [exec, execCorrect, h.operands, h.correctColor]
    obtain ⟨lut, ht, hl⟩ := h.lazyBuild
    rw [ht]
    exact ⟨_, _, rfl, rfl, lut, rfl, hl⟩
  | wrpix x y =>
    simp only [exec, execWrpix, h.operands, h.correctColor]
    split
    · exact (h.lazyBuild.writeSlot _ _).complete.next
    · exact h.complete.next
  | wrpixraw x y =>
    simp only [exec, execWrpixraw, h.operands]
    split
    · exact (h.writeSlot _ _).complete.next
    · exact h.complete.next
  | wrslotraw n =>
    simp only [exec, execWrslotraw, h.operands]
    split
    · exact (h.writeSlot _ _).complete.next
    · exact h.complete.next
  | flush =>
    obtain ⟨lut, rfl, hl⟩ := id h
    simp only [exec, execFlush]
    split
    · exact ⟨_, _, rfl, rfl, lut, rfl, hl⟩
    · exact h.raise _
  | reservedOpc o => exact h.raise _
  | busWCmd w =>
    dsimp only [exec, execBusWCmd]
    refine AgreeButStaleLut.busWrite (fun h => ?_) h
    obtain ⟨lut, rfl, hl⟩ := h
    have hb : busy { s with lut := lut } = busy s := rfl
    simp only [hb]
    split <;> exact ⟨lut, rfl, hl⟩
  | busWStatus d =>
    refine AgreeButStaleLut.busWrite (fun h => ?_) h
    obtain ⟨lut, rfl, hl⟩ := h
    unfold writeStatus
    split <;> exact ⟨lut, rfl, hl⟩
  | busWColor d | busWStgGamma d | busWStgRatio d | busWStgCfg d =>
    dsimp only [exec, execBusWColor, execBusWStgGamma, execBusWStgRatio, execBusWStgCfg]
    refine AgreeButStaleLut.busWrite (fun ⟨lut, ht, hl⟩ => ?_) h
    subst ht
    exact ⟨lut, rfl, hl⟩
  | busReserved w a =>
    cases w
    · exact h.busRead
    · exact AgreeButStaleLut.busWrite (fun h => h) h

theorem engineStep_goesOnAlike (h : AgreeButStaleLut s t) : GoOnAlike (engineStep s) (engineStep t) := by
  obtain ⟨lut, rfl, hl⟩ := id h
  unfold engineStep
  dsimp only
  split
  · exact h.next
  · split
    · exact exec_goesOnAlike _ h
    · split
      · exact exec_goesOnAlike _ ⟨lut, rfl, hl⟩
      · exact h.next

/-- A line event neither reads nor writes the LUT. -/
theorem txAdvance_withLut (s : State) (lut : Lut) :
    txAdvance { s with lut := lut } = { txAdvance s with lut := lut } := by
  have hs : txSource { s with lut := lut } = txSource s := rfl
  simp only [txAdvance, hs]
  split
  next => rfl
  next fb _ =>
    split
    next => split <;> rfl
    next => rfl
    next =>
      split
      · rfl
      · unfold nextBit
        dsimp only
        split
        · rfl
        · split <;> rfl
    next => rfl

theorem txStep_goesOnAlike (h : AgreeButStaleLut s t) : GoOnAlike (txStep s) (txStep t) := by
  obtain ⟨lut, rfl, hl⟩ := id h
  have hs : txSource { s with lut := lut } = txSource s := rfl
  simp only [txStep, hs]
  split
  · exact h.next
  · split
    · exact engineStep_goesOnAlike h
    · exact ⟨_, _, rfl, rfl, lut, txAdvance_withLut s lut, by simpa using hl⟩

theorem step_goesOnAlike (h : AgreeButStaleLut s t) : GoOnAlike (step s) (step t) := by
  obtain ⟨lut, rfl, hl⟩ := id h
  unfold step
  dsimp only
  split
  next => exact engineStep_goesOnAlike h
  next i rest _ =>
    have hrest : AgreeButStaleLut { s with inputs := rest } { s with inputs := rest, lut := lut } := ⟨lut, rfl, hl⟩
    cases i with
    | bus r =>
      dsimp only [inputStep]
      split
      · exact engineStep_goesOnAlike h
      · exact exec_goesOnAlike _ hrest
    | engine => exact engineStep_goesOnAlike hrest
    | tx => exact txStep_goesOnAlike hrest
    | rst level =>
      cases level
      · exact ⟨_, _, rfl, rfl, lut, rfl, hl⟩
      · exact (AgreeButStaleLut.refl _).next

/-- The same over any number of steps. -/
theorem run_goesOnAlike (k : Nat) (h : AgreeButStaleLut s t) :
    GoOnAlike (Host.Core.run core k s) (Host.Core.run core k t) := by
  induction k generalizing s t with
  | zero => exact h.next
  | succ k ih =>
    obtain ⟨s', t', hs, ht, h'⟩ := step_goesOnAlike h
    simp only [Host.Core.run, core, hs, ht]
    exact ih h'

end StaleLut

/-- Settles O37: the reads and the trace are among what stays the same. -/
theorem staleLutContentsAreUnobservable : Obligations.StaleLutContentsAreUnobservable := by
  intro k s t ⟨ht, hv⟩
  obtain ⟨s', t', hs, hk, lut, rfl, -⟩ :=
    run_goesOnAlike k (s := s) (t := t) ⟨t.lut, ht, fun h => absurd (h.symm.trans hv) (by simp)⟩
  exact ⟨s', _, hs, hk, rfl, rfl⟩

end Sys2Proof.Proofs

/-! PROOFS of the statements about the register window (R53 to R60): what a read returns, what a write changes, when a CMD
write is accepted, and that nothing stops the block. -/

namespace Sys2Proof.Proofs

open Sys2Proof.Machine Sys2Proof.Laws

/-! ### Nothing stops the block (R56, R211, R216) -/

/-- Settles O8: the comparison of two runs (O37) shows that both go on, here for a state and itself. -/
theorem everyStepAnswersANextState : Obligations.EveryStepAnswersANextState := by
  refine ⟨fun i s => ?_, fun s => ?_⟩
  · obtain ⟨t, -, h, -⟩ := exec_goesOnAlike i (.refl s)
    exact ⟨t, h⟩
  · obtain ⟨t, -, h, -⟩ := step_goesOnAlike (.refl s)
    exact ⟨t, h⟩

/-! ### Reads (R56, R59) -/

section Reads

variable {s : State} {i : Instr}

/-- The bus accesses that read (R78). -/
def isRead : Instr → Bool
  | .busRCmd | .busRStatus | .busRColor | .busRResult | .busRStgGamma | .busRStgRatio | .busRStgCfg | .busRFbdata _
  | .busReserved false _ => true
  | _ => false

/-- The register behind a read: STATUS, COLOR, RESULT or a slot, and 0 for every other (R53). -/
def readValue (s : State) : Instr → Word
  | .busRStatus => statusWord s
  | .busRColor => s.color.toWord
  | .busRResult => s.result
  | .busRFbdata n => fbWord s.fb n.toNat
  | _ => 0

/-- A request to read never decodes to a write: its rows of the table and its reserved addresses are reads (R78). -/
theorem isRead_decodeRequest (addr : BitVec 6) (d : Word) : isRead (decodeRequest false addr d) = true := by
  unfold decodeRequest
  split
  case h_14 => split <;> rfl
  all_goals simp_all [isRead]

/-- A read gives the host its register's word, or 0 while `rst` = 1 (R240). -/
theorem exec_of_isRead (hi : isRead i = true) : exec i s = busRead (readValue s i) s := by
  cases i with
  | busRCmd | busRStatus | busRColor | busRResult | busRStgGamma | busRStgRatio | busRStgCfg | busRFbdata => rfl
  | busReserved w a =>
    cases w with
    | false => rfl
    | true => cases hi
  | _ => cases hi

/-- No register that can be read is one of the transmitter's. -/
theorem readValue_txAdvance (s : State) (i : Instr) : readValue (txAdvance s) i = readValue s i := by
  cases i with
  | busRStatus => simp [readValue, statusWord, busy]
  | busRColor | busRResult | busRFbdata => simp [readValue]
  | _ => rfl

end Reads

/-- Settles O21: the word is the register's, or 0 while `rst` = 1. -/
theorem readsHaveNoSideEffect : Obligations.ReadsHaveNoSideEffect :=
  fun _ addr d => ⟨_, exec_of_isRead (isRead_decodeRequest addr d)⟩

/-- Settles O54: a line event changes neither the registers behind the reads, nor `rst`, nor the earlier reads. -/
theorem lineEventsAreInvisibleToReads : Obligations.LineEventsAreInvisibleToReads := by
  intro s t u addr d ht hu
  rw [exec_of_isRead (isRead_decodeRequest addr d)] at ht hu
  cases ht
  cases hu
  simp [readValue_txAdvance]

/-! ### What a bus access leaves alone (R57) -/

/-- Settles O22: no effect of a bus access names one of these elements. -/
theorem busAccessesLeaveCommandEffectsAlone : Obligations.BusAccessesLeaveCommandEffectsAlone := by
  intro s t write addr d h
  have hi := isCommand_decodeRequest write addr d
  generalize decodeRequest write addr d = i at hi h
  cases exec_access_effect hi h with
  | read | ignored | cmdHeld | cmdAccepted | status | color | stgGamma | stgRatio | stgCfg => simp

/-! ### Register writes and the command in progress (R58, R73) -/

/-- COLOR and the staging registers overwritten. -/
def overwrite (c : Rgb) (g r : Word) (k : BitVec 11) (s : State) : State :=
  { s with color := c, stgGamma := g, stgRatio := r, stgCfg := k }

/-- A function of the next state, on what a meaning answers. -/
def mapNext (f : State → State) : Result → Result
  | .next s => .next (f s)
  | .fault e => .fault e
  | .refused e => .refused e

section Overwrite

variable (c : Rgb) (g r : Word) (k : BitVec 11) (s : State)

theorem overwrite_raise (e : CmdError) :
    raise e (overwrite c g r k s) = mapNext (overwrite c g r k) (raise e s) := by
  rw [raise_eq, raise_eq]
  rfl

theorem overwrite_configured (cfg : CorrConfig) :
    complete (commitLut (overwrite c g r k s).cfg.gamma { overwrite c g r k s with cfg := cfg }) =
      overwrite c g r k (complete (commitLut s.cfg.gamma { s with cfg := cfg })) := by
  rw [commitLut_eq, commitLut_eq]
  rfl

theorem overwrite_lazyBuild : lazyBuild (overwrite c g r k s) = overwrite c g r k (lazyBuild s) := by
  unfold lazyBuild overwrite
  dsimp only
  split <;> rfl

variable {s} {p : Pending}

/-- The command in progress works on its latched operands (R73). -/
theorem operands_of_pending (hp : s.pending = some p) : operands s = p := by simp [operands, hp]

theorem exec_flush_enabled (he : s.txEn = true) : exec .flush s = .next (completeFrame s.fb s) := if_pos he

theorem exec_flush_disabled (he : s.txEn = false) : exec .flush s = raise .txNotInit s := if_neg (by simp [he])

/-- A command in progress comes to the same before an overwriting and after it. -/
theorem exec_overwrite {i : Instr} (hi : isCommand i = true) (hp : s.pending = some p) :
    exec i (overwrite c g r k s) = mapNext (overwrite c g r k) (exec i s) := by
  have ho : operands (overwrite c g r k s) = operands s :=
    (operands_of_pending (s := overwrite c g r k s) hp).trans (operands_of_pending hp).symm
  cases i with
  | nop | init | decode => rfl
  | configure =>
    simp only [exec, execConfigure, ho]
    split
    · exact congrArg Host.Outcome.next (overwrite_configured c g r k s _)
    · exact overwrite_raise c g r k s _
  | preset mode =>
    simp only [exec, execPreset]
    split
    · exact congrArg Host.Outcome.next (overwrite_configured c g r k s _)
    · exact overwrite_raise c g r k s _
  | correct =>
    simp only [exec, execCorrect, ho, overwrite_lazyBuild]
    rfl
  | wrpix x y =>
    simp only [exec, execWrpix, ho, overwrite_lazyBuild]
    split <;> rfl
  | wrpixraw x y =>
    simp only [exec, execWrpixraw, ho]
    split <;> rfl
  | wrslotraw n =>
    simp only [exec, execWrslotraw, ho]
    split <;> rfl
  | flush =>
    cases he : s.txEn with
    | true =>
      rw [exec_flush_enabled he, exec_flush_enabled (s := overwrite c g r k s) he]
      rfl
    | false =>
      rw [exec_flush_disabled he, exec_flush_disabled (s := overwrite c g r k s) he]
      exact overwrite_raise c g r k s _
  | reservedOpc o => exact overwrite_raise c g r k s _
  | _ => cases hi

end Overwrite

/-- Settles O23: overwriting the registers and the completion of the command commute. -/
theorem registerWritesDoNotAffectTheCommandInProgress :
    Obligations.RegisterWritesDoNotAffectTheCommandInProgress := by
  intro s t p c g r k hp h
  have hc := exec_overwrite c g r k (isCommand_decodeCommand p.word) hp
  rwa [h] at hc

/-! ### Reserved offsets and wrong directions (R53) -/

theorem decodeRequest_reserved_write {a : BitVec 6} (h : a.toNat = 3 ∨ 7 ≤ a.toNat) (d : Word) :
    decodeRequest true a d = .busReserved true a := by
  unfold decodeRequest
  split
  case h_7 hw _ => cases hw
  case h_14 => rfl
  all_goals omega

theorem decodeRequest_reserved_read {a : BitVec 6} (h : 7 ≤ a.toNat ∧ a.toNat < 32 ∨ 57 ≤ a.toNat) (d : Word) :
    decodeRequest false a d = .busReserved false a := by
  unfold decodeRequest
  split
  case h_14 => exact if_neg (by omega)
  all_goals omega

/-- Settles O14: reads of 0, writes of nothing, and which addresses are reserved. -/
theorem reservedAndWrongDirectionAccesses : Obligations.ReservedAndWrongDirectionAccesses := by
  intro s hr
  have read := busRead_eq hr 0
  exact ⟨⟨read, read, read, read⟩, fun _ => read, fun _ => busWrite_eq hr id,
    fun _ d h => decodeRequest_reserved_write h d, fun _ d h => decodeRequest_reserved_read h d⟩

/-! ### The host's transactions and the CMD write (R51, R57, R60) -/

section Moves

variable {s : State} {r : BusRequest} {rest : List Input}

theorem step_of_nothing_scheduled (h : s.inputs = []) : step s = engineStep s := by simp only [step, h]

theorem step_of_engine (h : s.inputs = .engine :: rest) : step s = engineStep { s with inputs := rest } := by
  simp only [step, h, inputStep]

/-- A transaction waits behind a held CMD write, and the engine moves (R60). -/
theorem step_of_bus_waiting (h : s.inputs = .bus r :: rest) (hh : s.held ≠ none) : step s = engineStep s := by
  simp only [step, h, inputStep, if_pos (Option.isSome_iff_ne_none.2 hh)]

theorem step_of_bus (h : s.inputs = .bus r :: rest) (hh : s.held = none) :
    step s = exec (decodeRequest r.write r.addr r.wdata) { s with inputs := rest } := by
  simp only [step, h, inputStep]
  exact if_neg (by simp [hh])

end Moves

/-- Settles O6: the pattern byte decodes to the request's own access. -/
theorem busTransactionRunsItsAccess : Obligations.BusTransactionRunsItsAccess := by
  intro s r rest i hh h hi
  rw [decode_access] at hi
  cases hi
  exact step_of_bus h hh

/-- A CMD write while no command is in progress. -/
theorem exec_busWCmd_idle {s : State} (hr : s.rst = false) (hp : s.pending = none) (d : Word) :
    exec (.busWCmd d) s = .next (accept d s) := by
  simp [exec, execBusWCmd, busWrite_eq hr, busy, hp]

/-- A CMD write while a command is in progress. -/
theorem exec_busWCmd_busy {s : State} (hr : s.rst = false) (hp : s.pending ≠ none) (d : Word) :
    exec (.busWCmd d) s = .next { s with held := some d } := by
  simp [exec, execBusWCmd, busWrite_eq hr, busy, Option.isSome_iff_ne_none, hp]

/-- Settles O19: the two cases of BUSY. -/
theorem cmdWriteIsAcceptedOrHeld : Obligations.CmdWriteIsAcceptedOrHeld :=
  fun _ d hr => ⟨fun hp => exec_busWCmd_idle hr hp d, fun hp => exec_busWCmd_busy hr hp d⟩

/-- Settles O20: in each of the three ways the engine moves, and it accepts the held write. -/
theorem heldCmdWriteIsAcceptedAfterBusyFalls : Obligations.HeldCmdWriteIsAcceptedAfterBusyFalls := by
  intro s d hr hh hp
  have accepts := engineStep_of_held hr hp hh
  refine ⟨?_, fun rest h => ?_⟩
  · rintro (h | ⟨r, rest, h⟩)
    · exact (step_of_nothing_scheduled h).trans accepts
    · exact (step_of_bus_waiting h (by simp [hh])).trans accepts
  · exact (step_of_engine h).trans (engineStep_of_held (s := { s with inputs := rest }) hr hp hh)

end Sys2Proof.Proofs

/-! PROOFS of the statements about the encoding (R70 to R78): decoding gives back what was encoded, reserved bits are
ignored, and both decoders answer well-formed instructions. -/

namespace Sys2Proof.Proofs

open Sys2Proof.Laws

/-! ### The fields of a command word (R70, R71) -/

@[simp] theorem opcField_commandWord (opc y x : Byte) : opcField (commandWord opc y x) = opc :=
  (commandWord_fields opc y x).1

@[simp] theorem yField_commandWord (opc y x : Byte) : yField (commandWord opc y x) = y :=
  (commandWord_fields opc y x).2.1

@[simp] theorem lowField_commandWord (opc y x : Byte) : lowField (commandWord opc y x) = x :=
  (commandWord_fields opc y x).2.2

/-- OPC is the top byte. -/
theorem opcField_toNat (w : Word) : (opcField w).toNat = (w >>> 24).toNat := by
  rw [opcField, BitVec.extractLsb'_toNat, BitVec.toNat_ushiftRight]
  exact Nat.mod_eq_of_lt (by rw [Nat.shiftRight_eq_div_pow]; omega)

/-- A command word is a reserved opcode exactly when its OPC is 0x0A or above (R74, R75). -/
theorem decodeCommand_eq_reservedOpc_iff (w : Word) :
    decodeCommand w = .reservedOpc (opcField w) ↔ 0x0A ≤ (opcField w).toNat := by
  unfold decodeCommand
  split
  case h_11 => simp only [true_iff]; grind
  all_goals simp only [reduceCtorEq, false_iff]; omega

/-! ### Decoding what was encoded -/

/-- The FBDATA reads (R78). -/
theorem decodeRequest_fbdata {a : BitVec 6} (h : 32 ≤ a.toNat ∧ a.toNat ≤ 56) (d : Word) :
    decodeRequest false a d = .busRFbdata (a.extractLsb' 0 5) := by
  unfold decodeRequest
  split
  case h_14 => exact if_pos ⟨rfl, h⟩
  all_goals omega

/-- Slot `s` of the frame buffer stands at word address `32 + s` (R52, R78). -/
theorem decodeRequest_fbdataAddress {s : BitVec 5} (h : s.toNat < 25) (d : Word) :
    decodeRequest false ((1#1) ++ s) d = .busRFbdata s := by
  have haddr : ((1#1) ++ s).toNat = 32 + s.toNat := by
    rw [BitVec.toNat_append, Nat.shiftLeft_eq]
    exact (Nat.two_pow_add_eq_or_of_lt s.isLt 1).symm
  have hslot : ((1#1) ++ s).extractLsb' 0 5 = s := BitVec.extractLsb'_append_eq_right
  rw [decodeRequest_fbdata (by omega), hslot]

/-- The reserved accesses (R53, R78): `isReservedAccess` is exactly what no other row of the bus table lists. -/
theorem decodeRequest_reserved {w : Bool} {a : BitVec 6} (h : isReservedAccess w a = true) (d : Word) :
    decodeRequest w a d = .busReserved w a := by
  cases w with
  | false => exact decodeRequest_reserved_read (by simpa [isReservedAccess] using h) d
  | true => exact decodeRequest_reserved_write (by simpa [isReservedAccess] using h) d

/-- Settles O1: a command's operands are fields of its word; an access is looked up by the direction and the address of
its pattern byte, and three instructions need that they are well formed. -/
theorem decodeOfEncodeIsTheInstruction : Obligations.DecodeOfEncodeIsTheInstruction := by
  intro i hi
  cases i with
  | reservedOpc opc =>
    have hopc : 0x0A ≤ opc.toNat := by simpa [Instr.wf] using hi
    have h := decodeCommand_eq_reservedOpc_iff (commandWord opc 0 0)
    rw [opcField_commandWord] at h
    exact congrArg Except.ok (h.2 hopc)
  | busRFbdata s =>
    have hs : s.toNat < 25 := by simpa [Instr.wf] using hi
    rw [encode, decode_access, decodeRequest_fbdataAddress hs]
  | busReserved w a => rw [encode, decode_access, decodeRequest_reserved hi]
  | nop | init | configure | preset | correct | decode | wrpix | wrpixraw | wrslotraw | flush =>
    simp [encode, decode, decodeCommand]
  | busWCmd | busRCmd | busRStatus | busWStatus | busRColor | busWColor | busRResult | busWStgGamma | busWStgRatio
  | busWStgCfg | busRStgGamma | busRStgRatio | busRStgCfg =>
    rw [encode, decode_access]
    rfl

/-! ### Reserved bits (R72) -/

/-- Flipping bits under a mask that is clear in a field leaves the field as it was. -/
theorem extractLsb'_xor_and_mask {m : Word} {k n : Nat} (hm : m.extractLsb' k n = 0#n) (w r : Word) :
    (w ^^^ (r &&& m)).extractLsb' k n = w.extractLsb' k n := by
  rw [BitVec.extractLsb'_xor, BitVec.extractLsb'_and, hm, BitVec.and_zero, BitVec.xor_zero]

/-- Format XY: OPC, Y and X determine the command, as they do in every format. -/
theorem decodeCommand_congr {v w : Word} (ho : opcField v = opcField w) (hy : yField v = yField w)
    (hx : lowField v = lowField w) : decodeCommand v = decodeCommand w := by
  simp only [decodeCommand, ho, hy, hx]

/-- Formats M and S: OPC and the low byte determine the command. -/
theorem decodeCommand_congr_of_preset_or_wrslotraw {v w : Word}
    (h : (opcField w).toNat = 3 ∨ (opcField w).toNat = 8) (ho : opcField v = opcField w)
    (hx : lowField v = lowField w) : decodeCommand v = decodeCommand w := by
  rcases h with h | h <;> simp only [decodeCommand, ho, hx, h]

/-- Format N and a reserved opcode: OPC alone determines the command. -/
theorem decodeCommand_congr_of_no_operand {v w : Word} (ho : opcField v = opcField w)
    (h : (opcField w).toNat ∉ [3, 5, 6, 7, 8]) : decodeCommand v = decodeCommand w := by
  unfold decodeCommand
  rw [ho]
  split
  case h_4 | h_6 | h_7 | h_8 | h_9 => simp_all
  all_goals rfl

/-- Settles O2: each mask is clear in the fields that the word's format reads. -/
theorem reservedCommandBitsAreIgnored : Obligations.ReservedCommandBitsAreIgnored := by
  intro w r
  have hopc := opcField_toNat w
  refine ⟨?_, fun h => ?_, fun h => ?_⟩
  · exact decodeCommand_congr (extractLsb'_xor_and_mask (by decide) w r)
      (extractLsb'_xor_and_mask (by decide) w r) (extractLsb'_xor_and_mask (by decide) w r)
  · refine decodeCommand_congr_of_preset_or_wrslotraw ?_ (extractLsb'_xor_and_mask (by decide) w r)
      (extractLsb'_xor_and_mask (by decide) w r)
    rw [hopc]
    exact h.imp (congrArg BitVec.toNat) (congrArg BitVec.toNat)
  · refine decodeCommand_congr_of_no_operand (extractLsb'_xor_and_mask (by decide) w r) ?_
    rw [hopc]
    rcases h with h | h | h | h | h
    case inr.inr.inr.inr =>
      have hle : 9 ≤ (w >>> 24).toNat := BitVec.le_def.1 h
      simp only [List.mem_cons, List.not_mem_nil, or_false]
      omega
    all_goals rw [h]; decide

/-! ### Well-formed answers (R74, R75, R78) -/

theorem wf_decodeCommand (w : Word) : (decodeCommand w).wf = true := by
  unfold decodeCommand
  split
  case h_11 => simp only [Instr.wf, decide_eq_true_eq]; grind
  all_goals rfl

theorem wf_decodeRequest (write : Bool) (addr : BitVec 6) (d : Word) : (decodeRequest write addr d).wf = true := by
  unfold decodeRequest
  split
  case h_14 =>
    split
    next h =>
      simp only [Instr.wf, BitVec.extractLsb'_toNat, Nat.shiftRight_zero, decide_eq_true_eq]
      omega
    next h =>
      simp only [Instr.wf, isReservedAccess]
      grind
  all_goals rfl

/-- Settles O3: OPC is 0x0A or above exactly when the word is 0x0A000000 or above. -/
theorem everyPatternDecodesToAWellFormedInstruction : Obligations.EveryPatternDecodesToAWellFormedInstruction := by
  refine ⟨fun w => ⟨wf_decodeCommand w, ?_⟩, wf_decodeRequest⟩
  have hopc := opcField_toNat w
  rw [BitVec.toNat_ushiftRight, Nat.shiftRight_eq_div_pow] at hopc
  refine (decodeCommand_eq_reservedOpc_iff w).trans ?_
  omega

/-! ### Words written out -/

/-- Settles O4, by evaluating the decoder on the eight closed inputs. -/
theorem writtenOutWordsDecode : Obligations.WrittenOutWordsDecode := by
  unfold Obligations.WrittenOutWordsDecode
  decide

end Sys2Proof.Proofs

/-! PROOFS of the statements about the colour correction (R100 to R121): the three stages, the gamma table against the
real power, and the commands of the unit. -/

namespace Sys2Proof.Proofs

open Sys2Proof.Machine Sys2Proof.Laws Sys2Proof.Safety

/-! ### The noise stage (R106) -/

/-- One lane of the noise stage, with the comparisons on bytes. -/
theorem noiseChannel_eq (cfg : CorrConfig) (v : Byte) :
    noiseChannel cfg v = if v ≠ 0 ∧ v < cfg.noiseThr then 0 else v := by
  have hpos : 0 < v.toNat ↔ v ≠ 0 := by rw [Nat.pos_iff_ne_zero, ne_eq, ne_eq, ← BitVec.toNat_inj]; rfl
  simp only [noiseChannel, hpos, BitVec.lt_def]

/-- Settles O30: the stage lane by lane, on or off. -/
theorem noiseStageZeroesChannelsBelowThreshold : Obligations.NoiseStageZeroesChannelsBelowThreshold := by
  intro cfg c
  cases h : cfg.enNoise <;> simp [noiseStage, h, noiseChannel_eq]

/-! ### The purification stage (R107 to R109, R118, R119) -/

/-- Settles O31: both quotients, `bin32` with its scale, over a common denominator. -/
theorem ratioTestIsExact : Obligations.RatioTestIsExact := by
  intro ratio M m hm
  rw [bin32, div_lt_div_iff₀ (by positivity) (by exact_mod_cast hm), ratioExceeds, decide_eq_true_eq]
  exact_mod_cast Iff.rfl

/-- A channel after the zeroing in the form of R118, which does not ask for the dominant channel. -/
def zeroSmall (M : Nat) (v : Byte) : Byte := if 4 * v.toNat < M then 0 else v

/-- The dominant channel holds M, and M is never below its own quarter. -/
theorem zeroIfSmall_eq {M : Nat} {dominant : Bool} {v : Byte} (h : dominant = true → v.toNat = M) :
    zeroIfSmall M dominant v = zeroSmall M v := by
  unfold zeroIfSmall zeroSmall
  cases dominant with
  | false => simp
  | true => rw [if_neg (by simp), if_neg (by have := h rfl; omega)]

/-- R118: which channel is the dominant one does not matter. -/
theorem zeroOthers_eq (M : Nat) (c : Rgb) : zeroOthers M c = ⟨zeroSmall M c.r, zeroSmall M c.g, zeroSmall M c.b⟩ := by
  unfold zeroOthers
  dsimp only
  rw [zeroIfSmall_eq (by simp), zeroIfSmall_eq (by simp), zeroIfSmall_eq (by simp)]

theorem zeroSmall_of_le {M : Nat} {v : Byte} (h : M ≤ 4 * v.toNat) : zeroSmall M v = v := if_neg (by omega)

theorem zeroSmall_le (M : Nat) (v : Byte) : (zeroSmall M v).toNat ≤ v.toNat := by
  unfold zeroSmall
  split
  · exact Nat.zero_le _
  · exact le_rfl

theorem maxChannel_lt (p : Config.Params) (c : Rgb) : maxChannel p c < 256 := by
  unfold maxChannel
  split <;> omega

/-- The guard and the ratio test of R108 as one condition on exact quotients. -/
theorem purify_eq (p : Config.Params) (cfg : CorrConfig) (c : Rgb) :
    purify p cfg c =
      if maxChannel p c > 100 ∧ minChannel c > 0 ∧ (maxChannel p c : ℚ) / minChannel c > bin32 cfg.ratio
      then zeroOthers (maxChannel p c) c else c := by
  unfold purify
  dsimp only
  by_cases hm : 0 < minChannel c
  · simp only [hm, and_true, true_and, ratioTestIsExact _ _ _ hm, ite_and]
  · rw [if_neg (fun h => hm h.2), if_neg (fun h => hm h.2.1)]

/-- Settles O32: off the stage is the identity; on it is the zeroing of R118 and then the white snap. -/
theorem purificationZeroesEverySmallChannel : Obligations.PurificationZeroesEverySmallChannel := by
  intro p cfg c
  cases h : cfg.enPur with
  | false => simp [purifyStage, h]
  | true =>
    simp only [purifyStage, h, purify_eq, zeroOthers_eq]
    rfl

/-- All three channels exceed 240 (R109). -/
def NearWhite (c : Rgb) : Prop := 240 < c.r.toNat ∧ 240 < c.g.toNat ∧ 240 < c.b.toNat

theorem whiteSnap_of_nearWhite {c : Rgb} (h : NearWhite c) : whiteSnap c = ⟨255, 255, 255⟩ := if_pos h

theorem whiteSnap_of_not_nearWhite {c : Rgb} (h : ¬ NearWhite c) : whiteSnap c = c := if_neg h

/-- R119: `4 · 240` is above every M, so nothing is zeroed. -/
theorem zeroOthers_of_nearWhite (p : Config.Params) {c : Rgb} (h : NearWhite c) : zeroOthers (maxChannel p c) c = c := by
  obtain ⟨hr, hg, hb⟩ := h
  have hM := maxChannel_lt p c
  rw [zeroOthers_eq, zeroSmall_of_le (by omega), zeroSmall_of_le (by omega), zeroSmall_of_le (by omega)]

/-- Zeroing raises no channel. -/
theorem nearWhite_of_zeroOthers {M : Nat} {c : Rgb} (h : NearWhite (zeroOthers M c)) : NearWhite c := by
  rw [zeroOthers_eq] at h
  obtain ⟨hr, hg, hb⟩ := h
  exact ⟨hr.trans_le (zeroSmall_le M c.r), hg.trans_le (zeroSmall_le M c.g), hb.trans_le (zeroSmall_le M c.b)⟩

/-- Settles O33: zeroing does nothing where the snap applies, and does not make it apply. -/
theorem whiteSnapAndZeroingCommute : Obligations.WhiteSnapAndZeroingCommute := by
  intro p c
  refine ⟨zeroOthers_of_nearWhite p, ?_⟩
  by_cases h : NearWhite c
  · have white : NearWhite ⟨255, 255, 255⟩ := by unfold NearWhite; decide
    rw [zeroOthers_of_nearWhite p h, whiteSnap_of_nearWhite h, zeroOthers_of_nearWhite p white]
  · rw [whiteSnap_of_not_nearWhite h, whiteSnap_of_not_nearWhite (mt nearWhite_of_zeroOthers h)]

/-! ### The gamma table (R110, R111) -/

/-- The thresholds up to a reached one are reached. -/
theorem exactAtLeast_of_threshold_le {e : Exponent} {i t u : Nat} (h : t ≤ u) (hu : exactAtLeast e i u = true) :
    exactAtLeast e i t = true := by
  rw [exactAtLeast_iff] at hu ⊢
  refine le_trans ?_ hu
  gcongr

/-- A larger entry index reaches at least the same thresholds. -/
theorem exactAtLeast_of_index_le {e : Exponent} {i j t : Nat} (h : i ≤ j) (hi : exactAtLeast e i t = true) :
    exactAtLeast e j t = true := by
  rw [exactAtLeast_iff] at hi ⊢
  refine hi.trans ?_
  gcongr

/-- Index 255 is the base 1, which reaches every threshold up to 1. -/
theorem exactAtLeast_last (e : Exponent) {t : Nat} (h : t ≤ 510) : exactAtLeast e 255 t = true := by
  rw [exactAtLeast_iff, div_self (by norm_num), one_pow]
  refine pow_le_one₀ (by positivity) ?_
  rw [div_le_one (by norm_num)]
  exact_mod_cast h

/-- An entry reaches `n` exactly when the threshold `(2n-1)/510` is reached. -/
theorem le_computedEntry_iff (w : Word) {i n : Nat} (h0 : 0 < i) (h : i ≤ 255) (hn : 0 < n) :
    n ≤ computedEntry w i ↔ exactAtLeast (exponentOf w) i (2 * n - 1) = true := by
  obtain ⟨-, reached, next⟩ := computedEntry_spec w h0 h
  refine ⟨fun hle => exactAtLeast_of_threshold_le (by omega) (reached (by omega)), fun hex => ?_⟩
  by_contra hlt
  rw [exactAtLeast_of_threshold_le (by omega) hex] at next
  cases next

theorem computedEntry_zero (w : Word) : computedEntry w 0 = 0 := if_pos rfl

theorem computedEntry_le (w : Word) {i : Nat} (h : i ≤ 255) : computedEntry w i ≤ 255 := by
  rcases Nat.eq_zero_or_pos i with rfl | h0
  · rw [computedEntry_zero]; exact Nat.zero_le _
  · exact (computedEntry_spec w h0 h).1

theorem computedEntry_last (w : Word) : computedEntry w 255 = 255 :=
  le_antisymm (computedEntry_le w le_rfl)
    ((le_computedEntry_iff w (by decide) le_rfl (by decide)).2 (exactAtLeast_last _ (by decide)))

theorem computedEntry_mono (w : Word) {i j : Nat} (hij : i ≤ j) (hj : j ≤ 255) :
    computedEntry w i ≤ computedEntry w j := by
  rcases Nat.eq_zero_or_pos (computedEntry w i) with hz | hpos
  · rw [hz]; exact Nat.zero_le _
  · have hi : 0 < i := Nat.pos_of_ne_zero fun h => by rw [h, computedEntry_zero] at hpos; omega
    have reached := (le_computedEntry_iff w hi (hij.trans hj) hpos).1 le_rfl
    exact (le_computedEntry_iff w (hi.trans_le hij) hj hpos).2 (exactAtLeast_of_index_le hij reached)

/-- With exponent 1 the thresholds compare with `2i` themselves. -/
theorem exactAtLeast_one (i t : Nat) : exactAtLeast (exponentOf 0x3F800000) i t = true ↔ t ≤ 2 * i := by
  have he : exponentOf 0x3F800000 = ⟨1, 0, 0⟩ := by decide
  simp only [he, exactAtLeast, decide_eq_true_eq, pow_zero, mul_one, pow_one]
  omega

theorem computedEntry_one {i : Nat} (h : i ≤ 255) : computedEntry 0x3F800000 i = i := by
  rcases Nat.eq_zero_or_pos i with rfl | h0
  · exact computedEntry_zero _
  · refine eq_of_forall_le_iff fun n => ?_
    rcases Nat.eq_zero_or_pos n with rfl | hn
    · simp
    · rw [le_computedEntry_iff _ h0 h hn, exactAtLeast_one]
      omega

/-- An entry of the table, as a number. -/
theorem gammaTable_toNat (w : Word) {i : Nat} (h : i < 256) : (gammaTable w)[i].toNat = computedEntry w i := by
  rw [gammaTable_getElem, gammaEntry_eq_computed w h, BitVec.toNat_ofNat]
  exact Nat.mod_eq_of_lt (by have := computedEntry_le w (Nat.le_of_lt_succ h); omega)

theorem gammaTable_zero (w : Word) : (gammaTable w)[0] = 0 :=
  BitVec.eq_of_toNat_eq ((gammaTable_toNat w (by decide)).trans (computedEntry_zero w))

/-- Settles O36: the ends, the order and exponent 1 of the computed entries; the first three hold of every word. -/
theorem gammaTableIsMonotoneWithFixedEnds : Obligations.GammaTableIsMonotoneWithFixedEnds := by
  refine ⟨fun w _ => ⟨gammaTable_zero w, ?_, fun i j hj hij => ?_⟩, fun i h => ?_⟩
  · exact BitVec.eq_of_toNat_eq ((gammaTable_toNat w (by decide)).trans (computedEntry_last w))
  · rw [BitVec.le_def, gammaTable_toNat, gammaTable_toNat]
    exact computedEntry_mono w hij (Nat.le_of_lt_succ hj)
  · rw [gammaTable_toNat _ h, computedEntry_one (Nat.le_of_lt_succ h)]

/-- A word with `isFinitePos` has a value above 0. -/
theorem bin32_pos {w : Word} (hw : isFinitePos w = true) : 0 < bin32 w := by
  obtain ⟨hpos, hlt⟩ := (finitePositiveWords w).1 hw
  have hsig : 0 < significand w := by
    have he := expField_eq w
    have hf := fracField_eq w
    unfold significand
    split <;> omega
  rw [bin32_of_isFinitePos hw, bin32Magnitude]
  positivity

/-- The comparison of integers is the comparison with the real power (R110): raise it to `2^down`. -/
theorem exactAtLeast_iff_rpow {w : Word} (hw : isFinitePos w = true) (i t : Nat) :
    exactAtLeast (exponentOf w) i t = true ↔ (t : ℝ) / 510 ≤ ((i : ℝ) / 255) ^ ((bin32 w : ℚ) : ℝ) := by
  have hexp : ((bin32 w : ℚ) : ℝ) * (2 ^ (exponentOf w).down : Nat)
      = ((exponentOf w).num * 2 ^ (exponentOf w).up : Nat) := by
    rw [← exponentOf_value hw]
    push_cast
    exact div_mul_cancel₀ _ (by positivity)
  have hpow : (2 ^ (exponentOf w).down : Nat) ≠ 0 := by positivity
  calc exactAtLeast (exponentOf w) i t = true
    _ ↔ ((t : ℝ) / 510) ^ 2 ^ (exponentOf w).down ≤ ((i : ℝ) / 255) ^ ((exponentOf w).num * 2 ^ (exponentOf w).up) := by
      rw [exactAtLeast_iff, ← Rat.cast_le (K := ℝ)]
      push_cast
      rfl
    _ ↔ ((t : ℝ) / 510) ^ 2 ^ (exponentOf w).down
          ≤ (((i : ℝ) / 255) ^ ((bin32 w : ℚ) : ℝ)) ^ 2 ^ (exponentOf w).down := by
      rw [← Real.rpow_mul_natCast (by positivity), hexp, Real.rpow_natCast]
    _ ↔ (t : ℝ) / 510 ≤ ((i : ℝ) / 255) ^ ((bin32 w : ℚ) : ℝ) :=
      pow_le_pow_iff_left₀ (by positivity) (by positivity) hpow

/-- The integer between whose thresholds `x` lies is `255·x` rounded. -/
theorem eq_round_of_thresholds {r : Nat} {x : ℝ} (h0 : 0 ≤ x) (reached : 1 ≤ r → ((2 * r - 1 : Nat) : ℝ) / 510 ≤ x)
    (next : x < ((2 * r + 1 : Nat) : ℝ) / 510) : (r : ℤ) = round (255 * x) := by
  refine (round_eq_iff.2 ⟨?lower, ?upper⟩).symm
  case lower =>
    cases r with
    | zero => push_cast; linarith
    | succ r =>
      have h := reached (Nat.le_add_left 1 r)
      rw [show 2 * (r + 1) - 1 = 2 * r + 1 by omega] at h
      push_cast at h ⊢
      linarith
  case upper =>
    push_cast at next ⊢
    linarith

/-- The computed entry is the rounded real power (R110): its own threshold is reached and the next is not. -/
theorem computedEntry_eq_round {w : Word} (hw : isFinitePos w = true) {i : Nat} (h : i ≤ 255) :
    (computedEntry w i : ℤ) = round (255 * ((i : ℝ) / 255) ^ ((bin32 w : ℚ) : ℝ)) := by
  rcases Nat.eq_zero_or_pos i with rfl | h0
  · have hne : ((bin32 w : ℚ) : ℝ) ≠ 0 := by exact_mod_cast (bin32_pos hw).ne'
    simp [computedEntry_zero, Real.zero_rpow hne]
  · obtain ⟨-, reached, next⟩ := computedEntry_spec w h0 h
    rw [exactAtLeast_iff_rpow hw] at reached
    rw [← Bool.not_eq_true, exactAtLeast_iff_rpow hw, not_le] at next
    exact eq_round_of_thresholds (by positivity) reached next

/-- Settles O35, entry by entry. -/
theorem gammaTableIsTheRoundedRealPower : Obligations.GammaTableIsTheRoundedRealPower := by
  intro w i h hw
  rw [gammaTable_toNat w h]
  exact computedEntry_eq_round hw (Nat.le_of_lt_succ h)

/-! ### The gamma stage and the whole pipeline (R113, R117, R121) -/

theorem gammaStage_on {cfg : CorrConfig} (h : cfg.enGamma = true) (lut : Lut) (c : Rgb) :
    gammaStage cfg lut c = ⟨lutAt lut c.r, lutAt lut c.g, lutAt lut c.b⟩ := if_pos h

theorem gammaStage_off {cfg : CorrConfig} (h : cfg.enGamma = false) (lut : Lut) (c : Rgb) :
    gammaStage cfg lut c = c := if_neg (by simp [h])

/-- Settles O57: the two cases of EN_GAMMA. -/
theorem gammaStageMapsEachChannelThroughTheTable : Obligations.GammaStageMapsEachChannelThroughTheTable := by
  refine fun cfg lut c => ⟨fun h => ?_, fun h => gammaStage_off h lut c⟩
  rw [gammaStage_on h]
  exact ⟨rfl, rfl, rfl⟩

/-- The pipeline of R117 is the three stages on the table of CFG.GAMMA. -/
theorem pureCorrect_eq (p : Config.Params) (cfg : CorrConfig) (c : Rgb) :
    pureCorrect p cfg c = gammaStage cfg (gammaTable cfg.gamma) (purifyStage p cfg (noiseStage cfg c)) := rfl

/-- Black: every channel is 0. -/
def black : Rgb := ⟨0, 0, 0⟩

theorem noiseStage_black (cfg : CorrConfig) : noiseStage cfg black = black := by
  rw [noiseStageZeroesChannelsBelowThreshold]
  simp [black]

/-- The smallest channel is 0, so black is not purified, and it is not near white. -/
theorem purifyStage_black (p : Config.Params) (cfg : CorrConfig) : purifyStage p cfg black = black := by
  have hp : purify p cfg black = black := if_neg (by simp [minChannel, black])
  rw [purifyStage, hp, whiteSnap_of_not_nearWhite (by unfold NearWhite; decide), ite_self]

theorem gammaStage_black (cfg : CorrConfig) (w : Word) : gammaStage cfg (gammaTable w) black = black := by
  cases h : cfg.enGamma with
  | false => exact gammaStage_off h _ _
  | true =>
    have hz : lutAt (gammaTable w) 0 = 0 := gammaTable_zero w
    rw [gammaStage_on h, black, hz]

/-- Settles O34: each stage keeps black. -/
theorem blackStaysBlack : Obligations.BlackStaysBlack := by
  intro p cfg
  change pureCorrect p cfg black = black
  rw [pureCorrect_eq, noiseStage_black, purifyStage_black, gammaStage_black]

/-- After the lazy build the pipeline on the LUT is the pipeline on the table of CFG.GAMMA (R117). -/
theorem correctColor_lazyBuild {s : State} (h : s.lutValid = true → s.lut = gammaTable s.cfg.gamma) (c : Rgb) :
    correctColor (lazyBuild s) c = pureCorrect s.params s.cfg c := by
  rw [pureCorrect_eq, correctColor, lazyBuild_eq h]
  cases hg : s.cfg.enGamma with
  | false => rw [gammaStage_off hg, gammaStage_off hg]
  | true => rfl

/-! ### CONFIGURE, PRESET and CORRECT (R100 to R104) -/

/-- A new CFG with CommitLUT and the completion, as one record update (R114). -/
theorem complete_commitLut_eq (s : State) (c : CorrConfig) :
    complete (commitLut s.cfg.gamma { s with cfg := c }) = { s with
      pending := none
      cfg := c
      lut := if c.enGamma then gammaTable c.gamma else s.lut
      lutValid := if c.enGamma then true else if c.gamma = s.cfg.gamma then s.lutValid else false } := by
  have hv : (c.enGamma || (c.gamma == s.cfg.gamma && s.lutValid)) =
      if c.enGamma then true else if c.gamma = s.cfg.gamma then s.lutValid else false := by
    cases c.enGamma <;> by_cases h : c.gamma = s.cfg.gamma <;> simp [h]
  rw [commitLut_eq, ← hv]
  rfl

theorem exec_configure_legal {s : State} (hg : isFinitePos (operands s).stgGamma = true)
    (hr : isFinitePos (operands s).stgRatio = true) :
    exec .configure s = .next (complete (commitLut s.cfg.gamma { s with
      cfg := stagedConfig (operands s).stgGamma (operands s).stgRatio (operands s).stgCfg })) :=
  if_pos (by rw [hg, hr, Bool.and_self])

theorem exec_configure_illegal {s : State}
    (h : isFinitePos (operands s).stgGamma = false ∨ isFinitePos (operands s).stgRatio = false) :
    exec .configure s = raise .badConfig s :=
  if_neg (by rcases h with h | h <;> simp [h])

/-- A bit of STG_CFG, as a number. -/
theorem getLsbD_eq_div_mod (k : BitVec 11) (n : Nat) : k.getLsbD n = (k.toNat / 2 ^ n % 2 == 1) := by
  rw [BitVec.getLsbD, Nat.testBit_eq_decide_div_mod_eq, beq_eq_decide]

/-- The configuration in the staging words, with the fields of STG_CFG as numbers (R27, R100). -/
theorem stagedConfig_eq (g r : Word) (k : BitVec 11) :
    stagedConfig g r k =
      { gamma := g, noiseThr := BitVec.ofNat 8 (k.toNat % 256), ratio := r, enGamma := k.toNat / 256 % 2 == 1,
        enNoise := k.toNat / 512 % 2 == 1, enPur := k.toNat / 1024 % 2 == 1 } := by
  have hthr : k.extractLsb' 0 8 = BitVec.ofNat 8 (k.toNat % 256) := by
    apply BitVec.eq_of_toNat_eq
    simp
  rw [stagedConfig, hthr, getLsbD_eq_div_mod, getLsbD_eq_div_mod, getLsbD_eq_div_mod]
  rfl

/-- Settles O27: the two outcomes of the check of the latched floats. -/
theorem configureInstallsTheStagedConfiguration : Obligations.ConfigureInstallsTheStagedConfiguration := by
  intro s p hp
  obtain rfl := operands_of_pending hp
  refine ⟨fun h => (exec_configure_illegal h).trans (raise_eq _ s), fun hg hr => ?_⟩
  rw [exec_configure_legal hg hr, complete_commitLut_eq, stagedConfig_eq]
  simp only [beq_iff_eq]

theorem exec_preset_of_row {s : State} {mode : Byte} {c : CorrConfig} (h : presetTable mode.toNat = some c) :
    exec (.preset mode) s = .next (complete (commitLut s.cfg.gamma { s with cfg := c })) := by
  simp only [exec, execPreset, h]

theorem exec_preset_without_row {s : State} {mode : Byte} (h : presetTable mode.toNat = none) :
    exec (.preset mode) s = raise .badPreset s := by
  simp only [exec, execPreset, h]

/-- PRESET of a row with EN_GAMMA = 1 builds the LUT. -/
theorem exec_preset_of_gammaRow {s : State} {mode : Byte} {c : CorrConfig} (h : presetTable mode.toNat = some c)
    (hc : c.enGamma = true) :
    exec (.preset mode) s = .next { s with pending := none, cfg := c, lut := gammaTable c.gamma, lutValid := true } := by
  rw [exec_preset_of_row h, complete_commitLut_eq]
  simp only [hc, if_true]

/-- The modes 1 to 4. -/
theorem presetMode_cases {mode : Byte} (h1 : 1 ≤ mode.toNat) (h4 : mode.toNat ≤ 4) :
    mode = 1 ∨ mode = 2 ∨ mode = 3 ∨ mode = 4 := by
  simp only [← BitVec.toNat_inj, BitVec.ofNat_eq_ofNat, BitVec.toNat_ofNat]
  omega

/-- Settles O28: row 0, no row, and the four rows with EN_GAMMA = 1. -/
theorem presetLoadsItsRow : Obligations.PresetLoadsItsRow := by
  intro s
  refine ⟨?row0, fun mode h => ?noRow, fun mode h1 h4 => ?rows⟩
  case row0 =>
    rw [exec_preset_of_row rfl, complete_commitLut_eq]
    simp only [Bool.false_eq_true, if_false, eq_comm (a := s.cfg.gamma)]
  case noRow => exact (exec_preset_without_row (presetTable_of_gt h)).trans (raise_eq _ s)
  case rows =>
    rcases presetMode_cases h1 h4 with rfl | rfl | rfl | rfl
    all_goals exact ⟨_, exec_preset_of_gammaRow rfl rfl, by decide⟩

theorem exec_correct (s : State) : exec .correct s = .next (complete { lazyBuild s with
    result := (correctColor (lazyBuild s) (operands s).color).toWord }) := rfl

/-- Settles O29: the lazy build, the corrected colour, and its layout. -/
theorem correctWritesTheCorrectedColor : Obligations.CorrectWritesTheCorrectedColor := by
  intro s p hp hl
  refine ⟨(pureCorrect s.params s.cfg p.color).toWord, ?_, rgb_toWord_fields _⟩
  rw [exec_correct, operands_of_pending hp, correctColor_lazyBuild hl, lazyBuild_eq hl]
  rfl

end Sys2Proof.Proofs

/-! PROOFS of the statements about the address decoder and the frame buffer (R140 to R149): the map `index` and its
inverse, DECODE, the three pixel writes, and reading a written slot back. -/

namespace Sys2Proof.Proofs

open Sys2Proof.Machine Sys2Proof.Laws Sys2Proof.Safety

/-! ### Valid coordinates (R140) -/

theorem isValid_iff (x y : Byte) : isValid x y = true ↔ x.toNat < 5 ∧ y.toNat < 5 := by
  rw [isValid, Bool.and_eq_true, decide_eq_true_iff, decide_eq_true_iff]
  rfl

theorem isValid_eq_false {x y : Byte} (h : 5 ≤ x.toNat ∨ 5 ≤ y.toNat) : isValid x y = false := by
  rw [Bool.eq_false_iff, ne_eq, isValid_iff]
  omega

/-! ### The reversed serpentine (R141, R143, R144) -/

/-- How far along row `y`, counted back from slot 24, column `x` is: even rows run from the left, odd ones from the
right (R141). -/
def rowOffset (y x : Nat) : Nat := if y % 2 = 0 then x else 4 - x

theorem rowOffset_lt {x : Nat} (y : Nat) (h : x < 5) : rowOffset y x < 5 := by
  unfold rowOffset
  split <;> omega

theorem rowOffset_rowOffset {x : Nat} (y : Nat) (h : x < 5) : rowOffset y (rowOffset y x) = x := by
  unfold rowOffset
  split <;> omega

theorem index_eq_rowOffset {x : Byte} (y : Byte) (h : x.toNat < 5) :
    index x y = 24 - (5 * y.toNat + rowOffset y.toNat x.toNat) := by
  unfold index rowOffset
  split <;> omega

theorem indexInverse_eq_rowOffset (n : Nat) :
    indexInverse n = (rowOffset ((24 - n) / 5) ((24 - n) % 5), (24 - n) / 5) := by
  dsimp only [indexInverse, rowOffset]
  split <;> rfl

theorem index_lt (x y : Byte) : index x y < 25 := by
  unfold index
  split <;> omega

/-- The slot counted back from 24 is `5·y` and an offset below 5, so that division by 5 takes them apart. -/
theorem indexInverse_index {x y : Byte} (hx : x.toNat < 5) (hy : y.toNat < 5) :
    indexInverse (index x y) = (x.toNat, y.toNat) := by
  have ho := rowOffset_lt y.toNat hx
  have hq : (24 - index x y) / 5 = y.toNat := by rw [index_eq_rowOffset y hx]; omega
  have hr : (24 - index x y) % 5 = rowOffset y.toNat x.toNat := by rw [index_eq_rowOffset y hx]; omega
  rw [indexInverse_eq_rowOffset, hq, hr, rowOffset_rowOffset y.toNat hx]

theorem indexInverse_lt {n : Nat} (h : n < 25) : (indexInverse n).1 < 5 ∧ (indexInverse n).2 < 5 := by
  rw [indexInverse_eq_rowOffset]
  exact ⟨rowOffset_lt _ (by omega), by simp only; omega⟩

theorem index_of_indexInverse {n : Nat} {x y : Byte} (h : n < 25) (hxy : indexInverse n = (x.toNat, y.toNat)) :
    index x y = n := by
  have hx : x.toNat < 5 := by simpa [hxy] using (indexInverse_lt h).1
  rw [indexInverse_eq_rowOffset, Prod.mk.injEq] at hxy
  obtain ⟨hr, hq⟩ := hxy
  rw [index_eq_rowOffset y hx, ← hr, ← hq, rowOffset_rowOffset _ (by omega)]
  omega

/-- R143's table, row by row. -/
theorem rowOffset_table : ∀ y < 5, ∀ x < 5, 24 - (5 * y + rowOffset y x) =
    ([[24, 23, 22, 21, 20], [15, 16, 17, 18, 19], [14, 13, 12, 11, 10], [5, 6, 7, 8, 9],
      [4, 3, 2, 1, 0]].getD y []).getD x 0 := by decide

/-- Settles O38: both maps count back from slot 24 and turn the odd rows round, and turning a row twice undoes it. -/
theorem indexIsTheReversedSerpentine : Obligations.IndexIsTheReversedSerpentine := by
  refine ⟨fun x y hv => ?map, fun n hn => ?onto⟩
  case map =>
    obtain ⟨hx, hy⟩ := (isValid_iff x y).1 hv
    exact ⟨index_lt x y, indexInverse_index hx hy,
      (index_eq_rowOffset y hx).trans (rowOffset_table _ hy _ hx)⟩
  case onto =>
    obtain ⟨hx, hy⟩ := indexInverse_lt hn
    have hinv : indexInverse n =
        ((BitVec.ofNat 8 (indexInverse n).1).toNat, (BitVec.ofNat 8 (indexInverse n).2).toNat) := by
      rw [BitVec.toNat_ofNat, BitVec.toNat_ofNat, Nat.mod_eq_of_lt (by omega), Nat.mod_eq_of_lt (by omega)]
    refine ⟨_, _, (isValid_iff _ _).2 ?_, index_of_indexInverse hn hinv, hinv⟩
    rw [hinv] at hx hy
    exact ⟨hx, hy⟩

/-! ### DECODE (R142) -/

/-- The 5-bit number of a slot is the slot. -/
theorem toNat_ofNat_index (x y : Byte) : (BitVec.ofNat 5 (index x y)).toNat = index x y := by
  have := index_lt x y
  rw [BitVec.toNat_ofNat, Nat.mod_eq_of_lt (by omega)]

/-- The fields of the word `{VALID, 26'b0, SLOT[4:0]}` (R142). -/
theorem validSlotWord_fields (slot : BitVec 5) :
    ((1#1) ++ (0#26) ++ slot : Word).getLsbD 31 = true ∧ ((1#1) ++ (0#26) ++ slot : Word).extractLsb' 5 26 = 0 ∧
    ((1#1) ++ (0#26) ++ slot : Word).extractLsb' 0 5 = slot := by
  refine ⟨?_, ?_, BitVec.extractLsb'_append_eq_right⟩
  · rw [BitVec.getLsbD_append]; rfl
  · rw [BitVec.extractLsb'_append_eq_of_le (by omega)]; rfl

/-- Settles O39: the word's fields with a slot, and the one word without. -/
theorem decodeCommandGivesTheSlot : Obligations.DecodeCommandGivesTheSlot := by
  refine fun s x y => ⟨decodeResult x y, rfl, fun h => ?_, fun h => ?_⟩
  · obtain ⟨hvalid, hzero, hslot⟩ := validSlotWord_fields (BitVec.ofNat 5 (index x y))
    rw [decodeResult, if_pos ((isValid_iff x y).2 h), hslot, toNat_ofNat_index]
    exact ⟨hvalid, hzero, rfl⟩
  · rw [decodeResult, isValid_eq_false h]
    rfl

/-! ### The pixel writes (R145 to R147) -/

section PixelWrites

variable {s : State} {x y : Byte}

theorem exec_wrpix_valid (h : isValid x y = true) : exec (.wrpix x y) s = .next (complete
    (writeSlot (index x y) (correctColor (lazyBuild s) (operands s).color).toSlot (lazyBuild s))) := if_pos h

theorem exec_wrpix_invalid (h : isValid x y = false) : exec (.wrpix x y) s = .next (complete s) :=
  if_neg (by simp [h])

theorem exec_wrpixraw_valid (h : isValid x y = true) :
    exec (.wrpixraw x y) s = .next (complete (writeSlot (index x y) (operands s).color.toSlot s)) := if_pos h

theorem exec_wrpixraw_invalid (h : isValid x y = false) : exec (.wrpixraw x y) s = .next (complete s) :=
  if_neg (by simp [h])

theorem exec_wrslotraw_of_lt {slot : Byte} (h : slot.toNat < 25) :
    exec (.wrslotraw slot) s = .next (complete (writeSlot slot.toNat (operands s).color.toSlot s)) := if_pos h

theorem exec_wrslotraw_of_ge {slot : Byte} (h : 25 ≤ slot.toNat) : exec (.wrslotraw slot) s = .next (complete s) :=
  if_neg (Nat.not_lt.2 h)

end PixelWrites

/-- Settles O40: after the lazy build the slot gets the colour of the pure pipeline. -/
theorem wrpixWritesTheCorrectedPixel : Obligations.WrpixWritesTheCorrectedPixel := by
  refine fun s p x y hp hl => ⟨fun h => ?_, fun h => exec_wrpix_invalid (isValid_eq_false h)⟩
  refine ⟨_, ?_, fun n hn => writeSlot_getElem s (index x y) n (pureCorrect s.params s.cfg p.color).toSlot hn⟩
  rw [exec_wrpix_valid ((isValid_iff x y).2 h), operands_of_pending hp, correctColor_lazyBuild hl, lazyBuild_eq hl]
  rfl

/-- Settles O41: the slot gets the latched colour. -/
theorem wrpixrawWritesTheRawPixel : Obligations.WrpixrawWritesTheRawPixel := by
  refine fun s p x y hp => ⟨fun h => ?_, fun h => exec_wrpixraw_invalid (isValid_eq_false h)⟩
  refine ⟨_, ?_, fun n hn => writeSlot_getElem s (index x y) n p.color.toSlot hn⟩
  rw [exec_wrpixraw_valid ((isValid_iff x y).2 h), operands_of_pending hp]
  rfl

/-- Settles O42: the named slot gets the latched colour. -/
theorem wrslotrawWritesTheSlot : Obligations.WrslotrawWritesTheSlot := by
  refine fun s p slot hp => ⟨fun h => ?_, exec_wrslotraw_of_ge⟩
  refine ⟨_, ?_, fun n hn => writeSlot_getElem s slot.toNat n p.color.toSlot hn⟩
  rw [exec_wrslotraw_of_lt h, operands_of_pending hp]
  rfl

/-! ### Reading a slot back (R149) -/

/-- FBDATA of the slot just written, at its 5-bit address (R148). -/
theorem fbWord_writeSlot_index (s : State) (x y : Byte) (sl : Slot) :
    fbWord (writeSlot (index x y) sl s).fb (BitVec.ofNat 5 (index x y)).toNat = sl.toWord := by
  rw [toNat_ofNat_index, fbWord_of_lt _ (index_lt x y), writeSlot_getElem, if_pos rfl]

/-- Settles O43: the slot read is the slot written, and its layout is COLOR's with the channels in wire order. -/
theorem rawPixelReadsBackUncorrected : Obligations.RawPixelReadsBackUncorrected := by
  intro s t p x y hr hp hv h
  rw [exec_wrpixraw_valid hv, operands_of_pending hp] at h
  cases h
  rw [exec_of_isRead rfl, readValue, complete_fb, fbWord_writeSlot_index]
  exact busRead_eq (s := complete (writeSlot (index x y) p.color.toSlot s)) hr _

end Sys2Proof.Proofs

/-! PROOFS of the statements about the transmitter (R170 to R180): the bits of a frame, the line events that send it, how
long they take, what INIT and FLUSH leave behind, and what the LEDs show. -/

namespace Sys2Proof.Proofs

open Sys2Proof.Machine Sys2Proof.Laws

/-! ### The bits of a frame (R172) -/

/-- The elements of a concatenation of pieces of one length. -/
theorem getElem?_flatMap_of_length_eq {α β : Type} {f : α → List β} {n : Nat} (hn : 0 < n)
    (hf : ∀ a, (f a).length = n) (l : List α) (k : Nat) :
    (l.flatMap f)[k]? = l[k / n]?.bind fun a => (f a)[k % n]? := by
  induction l generalizing k with
  | nil => simp
  | cons a l ih =>
    rw [List.flatMap_cons]
    by_cases hk : k < n
    · rw [List.getElem?_append_left (by rwa [hf]), Nat.div_eq_of_lt hk, Nat.mod_eq_of_lt hk]
      rfl
    · rw [List.getElem?_append_right (by rw [hf]; omega), hf, ih, Nat.div_eq_sub_div hn (Nat.not_lt.1 hk),
        Nat.mod_eq_sub_mod (Nat.not_lt.1 hk)]
      rfl

/-- A slot's bits are the low 24 of its FBDATA word, from the top. -/
theorem slotBits_eq (sl : Slot) : slotBits sl = (List.range 24).map fun i => sl.toWord.getLsbD (23 - i) := by
  obtain ⟨-, hg, hr, hb⟩ := slot_toWord_fields sl
  rw [slotBits, ← hg, ← hr, ← hb]
  simp [byteBits, List.range_succ]

theorem length_slotBits (sl : Slot) : (slotBits sl).length = 24 := rfl

theorem length_frameBits (fb : FrameBuffer) : (frameBits fb).length = 600 := by
  simp [frameBits, List.length_flatMap, length_slotBits]

theorem getElem?_frameBits (fb : FrameBuffer) {k : Nat} (hk : k < 600) :
    (frameBits fb)[k]? = some ((fbWord fb (k / 24)).getLsbD (23 - k % 24)) := by
  have hslot : k / 24 < 25 := by omega
  have hbit : k % 24 < 24 := by omega
  rw [frameBits, getElem?_flatMap_of_length_eq (by omega) length_slotBits, fbWord_of_lt fb hslot]
  simp [slotBits_eq, hslot, hbit]

/-- Settles O47: slot by slot, each in 24 bits. -/
theorem frameBitsFollowFbdata : Obligations.FrameBitsFollowFbdata :=
  fun fb => ⟨length_frameBits fb, fun _ => getElem?_frameBits fb⟩

/-- The frame of an INIT is all zeros (R180). -/
theorem frameBits_blackFrame : frameBits blackFrame = List.replicate 600 false := by
  have hslot : slotBits Slot.black = List.replicate 24 false := by decide
  simp [frameBits, blackFrame, hslot]

/-! ### How long a frame takes (R173, R177) -/

section Duration

variable {p : Config.Params}

/-- The high part and the low part of a bit make up its period. -/
theorem duration_sendBit (hp : p.wf) (v : Bool) : ((sendBit p v).map Prod.snd).sum = p.tBit := by
  obtain ⟨-, h01, h1⟩ := hp
  have hle : highTime p v ≤ p.tBit := by unfold highTime; split <;> omega
  simp [sendBit, hle]

theorem duration_bits (hp : p.wf) (bits : List Bool) :
    ((bits.flatMap (sendBit p)).map Prod.snd).sum = bits.length * p.tBit := by
  induction bits with
  | nil => simp
  | cons v bits ih =>
    rw [List.flatMap_cons, List.map_append, List.sum_append, duration_sendBit hp, ih, List.length_cons]
    ring

end Duration

/-- Settles O50: 600 bits of one period each, and the latch. -/
theorem frameWaveformDuration : Obligations.FrameWaveformDuration := by
  refine fun p fb hp => ⟨duration_sendBit hp, ?_⟩
  rw [frameWaveform, List.map_append, List.sum_append, duration_bits hp, length_frameBits]
  simp

/-! ### The line events of a frame (R173 to R175, R178) -/

/-- Bit `k` of a frame is on the line, in its high or its low part. -/
def atBit (k : Nat) (level : Bool) (s : State) : State :=
  { s with txPhase := .data, txSlot := Fin.ofNat 25 (k / 24), txBit := Fin.ofNat 24 (23 - k % 24), dout := level }

/-- The frame is sent, and the latch period begins. -/
def frameSent (fb : FrameBuffer) (s : State) : State :=
  { s with txPhase := .latch, txSlot := 24, txBit := 0, dout := false, trace := s.trace ++ [.frame (frameBits fb)] }

section Line

variable {s : State} {fb : FrameBuffer} {k : Nat}

theorem atBit_txSlot (hk : k < 600) (level : Bool) : (atBit k level s).txSlot.val = k / 24 :=
  Nat.mod_eq_of_lt (by omega)

theorem atBit_txBit (level : Bool) : (atBit k level s).txBit.val = 23 - k % 24 := Nat.mod_eq_of_lt (by omega)

theorem txAdvance_atBit_high (hs : txSource s = some fb) : txAdvance (atBit k true s) = atBit k false s :=
  txAdvance_high (s := atBit k true s) hs rfl rfl

/-- Any state of the data phase is at the bit that its counters name. -/
theorem eq_atBit {slot : Fin 25} {bit : Fin 24} {level : Bool} (hslot : slot.val = k / 24)
    (hbit : bit.val = 23 - k % 24) :
    { s with txPhase := .data, txSlot := slot, txBit := bit, dout := level } = atBit k level s := by
  have hs : slot = Fin.ofNat 25 (k / 24) := by rw [← hslot, Fin.ofNat_val_eq_self]
  have hb : bit = Fin.ofNat 24 (23 - k % 24) := by rw [← hbit, Fin.ofNat_val_eq_self]
  rw [hs, hb, atBit]

/-- The bits follow back to back, and after the last of a slot comes the first of the next (R174). -/
theorem txAdvance_atBit_low (hs : txSource s = some fb) (hk : k + 1 < 600) :
    txAdvance (atBit k false s) = atBit (k + 1) true s := by
  have hslot := atBit_txSlot (s := s) (show k < 600 by omega) false
  have hbit := atBit_txBit (s := s) (k := k) false
  rw [txAdvance_low (s := atBit k false s) hs rfl rfl]
  by_cases hlast : k % 24 < 23
  · rw [nextBit_in_slot (by omega)]
    exact eq_atBit (by omega) (by dsimp only; omega)
  · rw [nextBit_next_slot (by omega) (by omega)]
    exact eq_atBit (by dsimp only; omega) (show 23 = _ by omega)

/-- After the last bit comes the latch period, with the Frame in the trace (R178). -/
theorem txAdvance_atBit_last (hs : txSource s = some fb) : txAdvance (atBit 599 false s) = frameSent fb s := by
  have hslot := atBit_txSlot (s := s) (show 599 < 600 by omega) false
  have hbit := atBit_txBit (s := s) (k := 599) false
  rw [txAdvance_low (s := atBit 599 false s) hs rfl rfl, nextBit_last (by omega) (by omega)]
  rfl

/-- Two line events for each bit before it. -/
theorem iterate_txAdvance_startFrame (hs : txSource s = some fb) (hk : k < 600) :
    txAdvance^[2 * k] (startFrame s) = atBit k true s := by
  induction k with
  | zero => rfl
  | succ k ih =>
    rw [show 2 * (k + 1) = 2 * k + 1 + 1 by omega, Function.iterate_succ_apply', Function.iterate_succ_apply',
      ih (by omega), txAdvance_atBit_high hs, txAdvance_atBit_low hs hk]

theorem iterate_txAdvance_frame (hs : txSource s = some fb) : txAdvance^[1200] (startFrame s) = frameSent fb s := by
  rw [show 1200 = 2 * 599 + 1 + 1 by norm_num, Function.iterate_succ_apply', Function.iterate_succ_apply',
    iterate_txAdvance_startFrame hs (by omega), txAdvance_atBit_high hs, txAdvance_atBit_last hs]

/-! How long the line keeps its level (R173, R178, R180). -/

theorem lineHold_lead (hs : txSource s = some fb) (h : s.txPhase = .lead) : lineHold s = some s.params.tLatch := by
  simp only [lineHold, hs, h]

theorem lineHold_high (hs : txSource s = some fb) (h : s.txPhase = .data) (hd : s.dout = true) :
    lineHold s = some (highTime s.params (txBitValue s fb)) := by simp only [lineHold, hs, h, hd, if_true]

theorem lineHold_low (hs : txSource s = some fb) (h : s.txPhase = .data) (hd : s.dout = false) :
    lineHold s = some (s.params.tBit - highTime s.params (txBitValue s fb)) := by
  simp only [lineHold, hs, h, hd, Bool.false_eq_true, if_false]

theorem lineHold_latch (hs : txSource s = some fb) (h : s.txPhase = .latch) : lineHold s = some s.params.tLatch := by
  simp only [lineHold, hs, h]

/-- The bit on the line is the frame's (R175). -/
theorem txBitValue_atBit (hk : k < 600) (level : Bool) {v : Bool} (hv : (frameBits fb)[k]? = some v) :
    txBitValue (atBit k level s) fb = v := by
  rw [getElem?_frameBits fb hk, Option.some.injEq] at hv
  rw [txBitValue, atBit_txSlot hk, atBit_txBit, hv]

/-- What the line does for bit `k` of a frame, `v`: high and then low, each for its share of the period. -/
theorem lineEvents_of_bit (hs : txSource s = some fb) (hk : k < 600) {v : Bool} (hv : (frameBits fb)[k]? = some v) :
    let high := txAdvance^[2 * k] (startFrame s)
    let low := txAdvance^[2 * k + 1] (startFrame s)
    high.txPhase = .data ∧ high.dout = true ∧ high.txSlot.val = k / 24 ∧ high.txBit.val = 23 - k % 24 ∧
    low = { high with dout := false } ∧
    lineHold high = some (highTime s.params v) ∧ lineHold low = some (s.params.tBit - highTime s.params v) := by
  have hhigh := lineHold_high (s := atBit k true s) hs rfl rfl
  have hlow := lineHold_low (s := atBit k false s) hs rfl rfl
  rw [txBitValue_atBit hk _ hv] at hhigh hlow
  rw [Function.iterate_succ_apply', iterate_txAdvance_startFrame hs hk, txAdvance_atBit_high hs]
  exact ⟨rfl, rfl, atBit_txSlot hk true, atBit_txBit true, rfl, hhigh, hlow⟩

end Line

/-- Settles O49: the first line event begins the frame. -/
theorem flushSendsEveryBitBackToBack : Obligations.FlushSendsEveryBitBackToBack := by
  intro s p hp hf he hi
  have hs := txSource_of_flush hp hf he
  have start (n : Nat) : txAdvance^[n + 1] s = txAdvance^[n] (startFrame s) := by
    rw [Function.iterate_succ_apply, txAdvance_idle_flush hs hp hf hi]
  refine ⟨fun k hk => ?bits, ?sent⟩
  case bits =>
    have hv := getElem?_frameBits s.fb hk
    simp only [start, hv, Option.some.injEq]
    exact lineEvents_of_bit hs hk hv
  case sent =>
    rw [start 1200, iterate_txAdvance_frame hs]
    exact ⟨rfl, lineHold_latch (s := frameSent s.fb s) hs rfl⟩

/-- Settles O59: LEAD, and then the frame that a FLUSH of a black FB would send. -/
theorem initSendsLeadFrameAndLatch : Obligations.InitSendsLeadFrameAndLatch := by
  intro s p hp hi hidle
  have hs := txSource_of_init hp hi
  have lead := txAdvance_idle_init hs hp hi hidle
  have start (n : Nat) : txAdvance^[n + 2] s = txAdvance^[n] (startFrame s) := by
    rw [Function.iterate_succ_apply, Function.iterate_succ_apply, lead]
    exact congrArg _ (txAdvance_lead (s := { s with txPhase := .lead, dout := false }) hs rfl)
  refine ⟨lead, ?lead, fun k hk => ?bits, ?sent⟩
  case lead =>
    rw [lead]
    exact lineHold_lead (s := { s with txPhase := .lead, dout := false }) hs rfl
  case bits =>
    have hv : (frameBits blackFrame)[k]? = some false := by
      rw [frameBits_blackFrame, List.getElem?_replicate_of_lt hk]
    simp only [start]
    exact lineEvents_of_bit hs hk hv
  case sent =>
    rw [start 1200, iterate_txAdvance_frame hs, ← frameBits_blackFrame]
    exact ⟨rfl, lineHold_latch (s := frameSent blackFrame s) hs rfl⟩

/-! ### What INIT and FLUSH leave behind (R175, R180) -/

/-- Settles O45: the completion of a frame of zeros, after INIT's own two effects. -/
theorem initClearsTheFrameAndSendsZeros : Obligations.InitClearsTheFrameAndSendsZeros := by
  refine fun s => ⟨_, rfl, rfl, fbWord_blackFrame, ?_, rfl, rfl, rfl⟩
  rw [← frameBits_blackFrame]
  rfl

/-- Settles O46: the completion of the FB's frame. -/
theorem flushSendsTheFrameBuffer : Obligations.FlushSendsTheFrameBuffer :=
  fun _ he => ⟨_, exec_flush_enabled he, rfl, rfl⟩

/-! ### What the LEDs show (R178, R244) -/

/-- A frame and its latch at the end of the trace are what is shown. -/
theorem shownFrom_append_latched (bits : List Bool) (trace : List Event) (a b : Option (List Bool)) :
    shownFrom a b (trace ++ [.frame bits, .latch]) = some bits := by
  induction trace generalizing a b with
  | nil => rfl
  | cons e trace ih => cases e <;> exact ih _ _

/-- A frame not yet latched does not show. -/
theorem shownFrom_append_frame (bits : List Bool) (trace : List Event) (a b : Option (List Bool)) :
    shownFrom a b (trace ++ [.frame bits]) = shownFrom a b trace := by
  induction trace generalizing a b with
  | nil => rfl
  | cons e trace ih => cases e <;> exact ih _ _

section Leds

variable {s t : State} {fb : FrameBuffer}

/-- From an idle TX the completion of a frame shows it. -/
theorem shown_completeFrame (h : s.txPhase = .idle) : shown (completeFrame fb s).trace = some (frameBits fb) := by
  simp [completeFrame, remainingEvents, h, shown, shownFrom_append_latched]

theorem getLast?_completeFrame (fb : FrameBuffer) (s : State) : (completeFrame fb s).trace.getLast? = some .latch := by
  unfold completeFrame remainingEvents
  split <;> simp

theorem LineEvent.shown_eq (h : LineEvent fb s t) : shown t.trace = shown s.trace := by
  cases h with
  | none | bit => rfl
  | sent => exact shownFrom_append_frame _ _ _ _

/-- No line event changes what is shown. -/
theorem shown_txAdvance (s : State) : shown (txAdvance s).trace = shown s.trace := by
  cases hp : s.pending with
  | none => rw [txAdvance_of_none (txSource_of_none hp)]
  | some p =>
    cases hs : txSource s with
    | none => rw [txAdvance_of_none hs]
    | some fb => exact (txAdvance_lineEvent hp hs).shown_eq

/-- No instruction but FLUSH and INIT adds to the trace. -/
theorem exec_trace_eq {i : Instr} (hf : i ≠ .flush) (hi : i ≠ .init) (h : exec i s = .next t) : t.trace = s.trace := by
  by_contra hne
  obtain ⟨-, -, -, -, htrace, -⟩ := onlyTheNamedInstructionsWrite i s t h
  exact (htrace hne).elim hi hf

/-- A command leaves the trace alone, or ends it with a Latch. -/
theorem CommandEffect.trace {i : Instr} (he : CommandEffect s i t) :
    t.trace = s.trace ∨ t.trace.getLast? = some .latch := by
  cases he with
  | init | flush => exact .inr (getLast?_completeFrame _ _)
  | nothing | error | configured | corrected | decoded | pixel | raw => exact .inl (by simp)

/-- What is shown changes in a move only where a Latch ends the trace. -/
theorem Move.shown_eq_or_latch (hm : Move s t) : shown t.trace = shown s.trace ∨ t.trace.getLast? = some .latch := by
  cases hm with
  | idle | held => exact .inl rfl
  | line => exact .inl (shown_txAdvance s)
  | command p hr hp he =>
    exact (exec_command_effect (isCommand_decodeCommand _) he).trace.imp_left (congrArg shown)
  | access write addr d he =>
    obtain ⟨-, -, -, -, -, -, htrace, -⟩ := busAccessesLeaveCommandEffectsAlone _ _ write addr d he
    exact .inl (congrArg shown htrace)

end Leds

/-- Settles O51: a frame shows once it is latched, and only a Latch or a reset makes a difference. -/
theorem ledsChangeOnlyAtALatch : Obligations.LedsChangeOnlyAtALatch := by
  refine ⟨fun s t he hi h => ?flush, fun s t hi h => ?init, shown_txAdvance,
    fun i s t hf hi h => congrArg shown (exec_trace_eq hf hi h), fun s t hs hne => ?step⟩
  case flush =>
    rw [exec_flush_enabled he] at h
    cases h
    exact shown_completeFrame hi
  case init =>
    cases h
    rw [← frameBits_blackFrame]
    exact shown_completeFrame (s := { s with txEn := true, fb := blackFrame }) hi
  case step =>
    obtain ⟨level, rest, hi, rfl⟩ | ⟨rest, hm⟩ := step_cases hs
    · cases level with
      | true => exact .inr (by rw [hi]; rfl)
      | false => exact absurd rfl hne
    · exact .inl (hm.shown_eq_or_latch.resolve_left hne)

end Sys2Proof.Proofs


/-! PROOF of the statement about control: NOP (R200). -/

namespace Sys2Proof.Proofs

open Sys2Proof.Machine

/-- R70, R74: a command word below 0x01000000 has OPC 0. -/
theorem decodeCommand_eq_nop_of_lt {w : Word} (hw : w.toNat < 0x01000000) : decodeCommand w = .nop := by
  have hopc : (opcField w).toNat = 0 := by
    rw [opcField_toNat, BitVec.toNat_ushiftRight, Nat.shiftRight_eq_div_pow]
    exact Nat.div_eq_of_lt hw
  simp only [decodeCommand, hopc]

/-- NOP is only the completion. -/
theorem exec_nop (s : State) : exec .nop s = .next (complete s) := rfl

/-- Settles O24: a word below 0x01000000 decodes to NOP, and NOP is only the completion. -/
theorem nopOnlyCompletes : Obligations.NopOnlyCompletes :=
  fun s => ⟨exec_nop s, fun _ hw => (decodeCommand_eq_nop_of_lt hw).symm ▸ exec_nop s⟩

end Sys2Proof.Proofs


/-! PROOFS of the statements about errors: the error record of a command (R211, R212, R218) and the STATUS write that
clears it (R217). -/

namespace Sys2Proof.Proofs

open Sys2Proof.Machine Sys2Proof.Laws

/-! ### The commands that err (R101, R102, R176, R212) -/

theorem exec_reservedOpc (opc : Byte) (s : State) : exec (.reservedOpc opc) s = raise .reservedOpc s := rfl

/-- Settles O25: each of the four causes raises its own error, and an error is the record and the completion. -/
theorem erringCommandOnlyRecordsTheFirstError : Obligations.ErringCommandOnlyRecordsTheFirstError := by
  rintro s i code (⟨⟨opc, rfl⟩, rfl⟩ | ⟨rfl, hfloat, rfl⟩ | ⟨⟨mode, rfl, hmode⟩, rfl⟩ | ⟨rfl, htx, rfl⟩)
  · exact (exec_reservedOpc opc s).trans (raise_eq _ s)
  · exact (exec_configure_illegal hfloat).trans (raise_eq _ s)
  · exact (exec_preset_without_row (presetTable_of_gt hmode)).trans (raise_eq _ s)
  · exact (exec_flush_disabled htx).trans (raise_eq _ s)

/-! ### The STATUS write (R217) -/

/-- Bit 3 of a STATUS write, as a number. -/
theorem statusClearBit_eq (d : Word) : d.getLsbD 3 = decide (d.toNat / 8 % 2 = 1) :=
  Nat.testBit_eq_decide_div_mod_eq

/-- With `rst` = 0 the STATUS write has its effect on the error record. -/
theorem exec_busWStatus {s : State} (hr : s.rst = false) (d : Word) :
    exec (.busWStatus d) s = .next (writeStatus d s) := busWrite_eq hr _

/-- Settles O18: the two values of bit 3. -/
theorem statusWriteClearsTheErrorRecord : Obligations.StatusWriteClearsTheErrorRecord := by
  intro s d hr
  rw [exec_busWStatus hr, writeStatus, statusClearBit_eq]
  refine ⟨fun h => ?set, fun h => ?clear⟩
  case set => rw [if_pos (decide_eq_true h)]
  case clear => rw [if_neg (by simp [h])]

end Sys2Proof.Proofs


/-! PROOFS of the statements about reset (R240, R241): the reset values, what driving `rst` to either level does, and
what holds while `rst` = 1. -/

namespace Sys2Proof.Proofs

open Sys2Proof.Machine Sys2Proof.Laws Sys2Proof.Safety

/-! ### The levels of `rst` (R240, R241) -/

/-- Settles O10: the state after reset is the block in reset with `rst` released. -/
theorem resetStateHasTheResetValues : Obligations.ResetStateHasTheResetValues :=
  { atResetValues_resetBlock State.reset with }

section Moves

variable {s : State} {rest : List Input}

theorem step_of_rst {level : Bool} (h : s.inputs = .rst level :: rest) :
    step s = .next (driveRst level { s with inputs := rest }) := by
  simp only [step, h, inputStep]

theorem step_of_tx (h : s.inputs = .tx :: rest) : step s = txStep { s with inputs := rest } := by
  simp only [step, h, inputStep]

end Moves

/-- Settles O11: the step leads to the block in reset, with the host's reads and the later moves kept. -/
theorem rstTakesEveryElementToItsResetValue : Obligations.RstTakesEveryElementToItsResetValue :=
  fun _ _ h => ⟨_, step_of_rst h, atResetValues_resetBlock _, rfl, rfl, rfl, rfl⟩

/-- Settles O58: the release is `driveRst`'s other level, and in reset the engine and the transmitter stand still. -/
theorem rstReleaseAndHoldChangeNothingElse : Obligations.RstReleaseAndHoldChangeNothingElse := by
  intro s rest
  refine ⟨fun h => step_of_rst h, fun hr hmove => ?move, fun hr h => ?nothing⟩
  case move =>
    rcases hmove with h | h
    · exact (step_of_engine h).trans (engineStep_in_reset (s := { s with inputs := rest }) hr)
    · exact (step_of_tx h).trans (txStep_in_reset (s := { s with inputs := rest }) hr)
  case nothing => exact (step_of_nothing_scheduled h).trans (engineStep_in_reset hr)

/-! ### The bus while `rst` = 1 (R240) -/

/-- A request to write never decodes to a read (R78). -/
theorem isRead_decodeRequest_write (addr : BitVec 6) (d : Word) : isRead (decodeRequest true addr d) = false := by
  unfold decodeRequest
  split
  case h_14 => rfl
  all_goals simp_all [isRead]

/-- A bus access that does not read has no effect while `rst` = 1: its meaning is a bus write. -/
theorem exec_write_in_reset {s : State} {i : Instr} (hr : s.rst = true) (hc : isCommand i = false)
    (hw : isRead i = false) : exec i s = .next s := by
  cases i with
  | busWCmd | busWStatus | busWColor | busWStgGamma | busWStgRatio | busWStgCfg =>
    simp only [exec, execBusWCmd, execBusWStatus, execBusWColor, execBusWStgGamma, execBusWStgRatio, execBusWStgCfg,
      busWrite_in_reset hr]
  | busReserved w a =>
    cases w with
    | false => cases hw
    | true => exact busWrite_in_reset hr _
  | busRCmd | busRStatus | busRColor | busRResult | busRStgGamma | busRStgRatio | busRStgCfg | busRFbdata => cases hw
  | _ => cases hc

/-- Settles O12: a request to write decodes to a bus write, a request to read to a bus read, which gives 0. -/
theorem busDuringResetHasNoEffect : Obligations.BusDuringResetHasNoEffect := by
  intro s write addr d hr
  cases write with
  | true => exact exec_write_in_reset hr (isCommand_decodeRequest _ _ _) (isRead_decodeRequest_write addr d)
  | false => exact (exec_of_isRead (isRead_decodeRequest addr d)).trans (busRead_in_reset hr _)

end Sys2Proof.Proofs
